-- ==== Sys2Proof/Word.lean ====
section
/-!
DEFINITION. The words the spec moves and the frame value (00_scope.md R7, R11, R13).
-/

namespace Sys2Proof

/-- A byte, 0..255 (R11). -/
abbrev Byte := BitVec 8

/-- A 32-bit word: the header word, the checksum, a host count (R71, R79, R100). -/
abbrev U32 := BitVec 32

/-- A frame value (R13). That `data` has `size` bytes is checked by `Frame.wf`, not by the type. -/
structure Frame where
  id   : Byte
  ack  : Byte
  size : Byte
  data : List Byte
  deriving DecidableEq, Repr, Inhabited

/-- `|data| = size`, the condition of R13. -/
def Frame.wf (f : Frame) : Bool := f.data.length == f.size.toNat

/-- A canonical frame (30_encoding.md R77): a data frame with `ack = 0`, or an acknowledgment frame
with `ack ≠ 0` and no payload. Every frame the block emits is canonical; the decoder does not ask. -/
def Frame.canonical (f : Frame) : Bool :=
  f.wf && (if f.id = 0#8 then f.ack != 0#8 && f.size == 0#8 else f.ack == 0#8)

end Sys2Proof
end

