-- ==== Sys2Proof/Config.lean ====
section
/-!
DEFINITION. What an implementation fixes (00_scope.md R6), the inputs that stand for the environment and for
the order of the agents' steps (R8, R15, 42_state_machine.md R140), and the free values: constants with no body,
so that no proof can see a value the spec leaves open.
-/

namespace Sys2Proof

/-- The default MTU (00_scope.md R6). -/
def Config.defaultMtu : Byte := 200#8

/-- The default retry interval, 10 ms (R6), in microseconds. DESIGN CHOICE (log 5): the unit. Safe: no step reads it
but to restart the timer. -/
def Config.defaultRetry : Nat := 10000

/-- START_MARKER (R6, D2): an OPEN parameter of the spec, so a constant with no body (log 1). Safe. -/
opaque Config.startMarker : Byte

/-- One step an agent of the block may take, as a schedule names it. -/
inductive Pick where
  /-- FSM services the `k`-th of the host operations that wait (42_state_machine.md R142, R143; their order is open, R200). -/
  | serve (k : Nat)
  /-- FSM takes the held frame (R144), whichever kind it is. -/
  | take
  /-- The step with this label (30_encoding.md R81). -/
  | agent (label : Byte)
  deriving DecidableEq, Repr, Inhabited

/-- One thing the environment does. -/
inductive Env where
  /-- Host agent `agent` issues the command `cmd` at the host port (44_host_interface.md R200). -/
  | issue (agent : Nat) (cmd : List Byte)
  /-- The channel offers these bytes on the receive line (00_scope.md R15; the trace line `rx`, R83). -/
  | offer (bytes : List Byte)
  /-- The channel drops the `i`-th byte it still holds (R15). -/
  | drop (i : Nat)
  /-- The channel corrupts the `i`-th byte it still holds (R15). -/
  | alter (i : Nat) (b : Byte)
  /-- The channel inserts a noise byte before the `i`-th byte it still holds (R15). -/
  | noise (i : Nat) (b : Byte)
  /-- Reset with the configuration as it is (70_reset_and_hazards.md R250). -/
  | reset
  /-- Set the configuration, then reset (R251; the trace line `config`, R83). -/
  | config (mtu retry : Nat) (start : Byte)
  deriving DecidableEq, Repr, Inhabited

/-- One entry of the agenda: what happens next. -/
inductive Act where
  | pick (p : Pick)
  /-- Let the agents step by the eager schedule until none has an enabled step (30_encoding.md R83). -/
  | settle
  | env (e : Env)
  deriving DecidableEq, Repr, Inhabited

/-- The free schedule (42_state_machine.md R140, R153, 60_exceptions.md R230): what happens next where no agenda says it (log 6). -/
opaque Config.freeAct : Nat → Act

/-- The bytes emitted around a reset of a block that is sending (70_reset_and_hazards.md R253): any value (log 11). -/
opaque Config.resetBytes : Nat → List Byte

/-- One less than the time to the first tick after a reset (60_exceptions.md R232, D32): any positive delay (log 4). -/
opaque Config.firstTickDelay : Nat → Nat

end Sys2Proof
end

