-- ==== Sys2Proof/Syntax.lean ====
section
/-!
DEFINITION. The instructions: one constructor for each row of spec/opcode_table.json (30_encoding.md R75, R80, R81).
The block is not programmable (10_state.md R20): an instruction is a wire frame the decoder yields, a command at the
host port, or a labelled step of an agent. The start marker is no operand: it is `CFG.START` on every frame but a bad start.
-/

namespace Sys2Proof

inductive Instr where
  /-- FRAME_ACK: a frame with `id = 0`, taken by the FSM (R75, 42_state_machine.md R145). -/
  | frameAck (ack size : Byte) (data : List Byte)
  /-- FRAME_DATA: a frame with `id ≠ 0`, taken by the FSM (R75, 42_state_machine.md R146). -/
  | frameData (id ack size : Byte) (data : List Byte)
  /-- FRAME_BAD_START: the four bytes of a header whose first is not the start marker (R75, 40_codec.md R107). -/
  | frameBadStart (h0 h1 h2 h3 : Byte)
  /-- HOST_WRITE (R79, 42_state_machine.md R142); `n` is the number of the bytes. -/
  | hostWrite (data : List Byte)
  /-- HOST_READ (R79, 42_state_machine.md R143). -/
  | hostRead (n : U32)
  /-- HOST_RESERVED: any other host opcode (R78, R80). -/
  | hostReserved (opcode : Byte)
  | tick
  | advHandoff
  | advAbandon
  | resendTry
  | ackHandoff
  | rxByte
  | rxIoerr
  | txByte
  | txErr
  | tmrTick
  deriving DecidableEq, Repr

end Sys2Proof
end

