-- ==== Sys2Proof/WellFormed.lean ====
section
/-!
DEFINITION. Which instructions an encoding can stand for, given the start marker the block is configured with.
-/

namespace Sys2Proof

/-- The well-formed instructions: payload lengths as the size field says (00_scope.md R13), the id and start
classes of 30_encoding.md R75, a length a host count can say (R79), and opcodes that are reserved (R80). -/
def Instr.wf (start : Byte) : Instr → Bool
  | .frameAck _ size data      => data.length == size.toNat
  | .frameData id _ size data  => id != 0#8 && data.length == size.toNat
  | .frameBadStart h0 _ _ _    => h0 != start
  | .hostWrite data            => decide (data.length < 2 ^ 32)
  | .hostRead _                => true
  | .hostReserved opcode       => opcode != 0x01#8 && opcode != 0x02#8
  | .tick                      => true
  | .advHandoff                => true
  | .advAbandon                => true
  | .resendTry                 => true
  | .ackHandoff                => true
  | .rxByte                    => true
  | .rxIoerr                   => true
  | .txByte                    => true
  | .txErr                     => true
  | .tmrTick                   => true

end Sys2Proof
end

