-- ==== Sys2Proof/Decode.lean ====
section
/-!
DEFINITION. The codec and the three encoded interfaces (30_encoding.md, 40_codec.md): the checksum, the frame encoder
and decoder as pure functions, the host commands and the step labels, and the words of spec/opcode_table.json.
-/

namespace Sys2Proof

/-! ## Byte order -/

/-- `be32` of 00_scope.md R11. -/
def be32 (v : U32) : List Byte :=
  [v.extractLsb' 24 8, v.extractLsb' 16 8, v.extractLsb' 8 8, v.extractLsb' 0 8]

/-- `from_be32` of R11. -/
def fromBe32 (b0 b1 b2 b3 : Byte) : U32 :=
  (b0.zeroExtend 32 <<< 24) ||| (b1.zeroExtend 32 <<< 16) ||| (b2.zeroExtend 32 <<< 8) ||| b3.zeroExtend 32

/-- The 32-bit big-endian value at index `i` of a byte sequence. -/
def be32At (bs : List Byte) (i : Nat) : U32 :=
  fromBe32 (bs.getD i 0#8) (bs.getD (i + 1) 0#8) (bs.getD (i + 2) 0#8) (bs.getD (i + 3) 0#8)

/-! ## CRC32 (40_codec.md R100)

PRESUMED (log 2): the polynomial, the reflection, the initial value and the final exclusive or are those of R100, which
the spec marks as general knowledge. This is the one place that holds them. -/

/-- The reflected generator polynomial. -/
def crcPoly : U32 := 0xEDB88320#32

/-- One turn of the inner loop of R100. -/
def crcBit (c : U32) : U32 :=
  if c &&& 1#32 = 1#32 then (c >>> 1) ^^^ crcPoly else c >>> 1

/-- `k` turns of the inner loop. -/
def crcBits : Nat → U32 → U32
  | 0, c     => c
  | k + 1, c => crcBits k (crcBit c)

/-- One turn of the outer loop of R100. -/
def crcByte (c : U32) (b : Byte) : U32 := crcBits 8 (c ^^^ b.zeroExtend 32)

/-- CRC32 of a byte sequence (R100). -/
def crc32 (s : List Byte) : U32 := s.foldl crcByte 0xFFFFFFFF#32 ^^^ 0xFFFFFFFF#32

/-! ## Frames on the wire -/

/-- The header and the payload, which the checksum covers (30_encoding.md R74). -/
def frameBody (start : Byte) (f : Frame) : List Byte :=
  [start, f.id, f.ack, f.size] ++ f.data

/-- ENCODE (40_codec.md R103). -/
def encodeFrame (start : Byte) (f : Frame) : List Byte :=
  frameBody start f ++ be32 (crc32 (frameBody start f))

/-- The verdict of one decode attempt that ends without an I/O error (40_codec.md R117). -/
inductive Verdict where
  | invalidStart
  | checksumMismatch
  | frame (f : Frame)
  deriving DecidableEq, Repr

/-- The frame in the `8 + size` bytes of a complete attempt. -/
def frameAt (bs : List Byte) : Frame :=
  { id := bs.getD 1 0#8, ack := bs.getD 2 0#8, size := bs.getD 3 0#8,
    data := (bs.drop 4).take (bs.getD 3 0#8).toNat }

/-- Whether the trailer of a complete attempt agrees with its header and payload (40_codec.md R110). -/
def trailerGood (bs : List Byte) : Bool :=
  crc32 (bs.take (4 + (bs.getD 3 0#8).toNat)) == be32At bs (4 + (bs.getD 3 0#8).toNat)

/-- DECODE as a pure function (40_codec.md R117): the verdict and the bytes consumed, `none` where more are needed. -/
def decodeStream (start : Byte) (bs : List Byte) : Option (Verdict × Nat) :=
  if bs.length < 4 then none
  else if bs.getD 0 0#8 ≠ start then some (.invalidStart, 4)
  else if bs.length < 8 + (bs.getD 3 0#8).toNat then none
  else if trailerGood bs then some (.frame (frameAt bs), 8 + (bs.getD 3 0#8).toNat)
  else some (.checksumMismatch, 8 + (bs.getD 3 0#8).toNat)

/-- A decoded frame as an instruction: dispatch on `id` alone (30_encoding.md R75, 42_state_machine.md R144). -/
def Frame.toInstr (f : Frame) : Instr :=
  if f.id = 0#8 then .frameAck f.ack f.size f.data else .frameData f.id f.ack f.size f.data

/-- The classes of a header, in the order of 30_encoding.md R75. -/
def classifyHeader (start h0 h1 h2 h3 : Byte) (data : List Byte) : Instr :=
  if h0 ≠ start then .frameBadStart h0 h1 h2 h3 else Frame.toInstr ⟨h1, h2, h3, data⟩

/-! ## Decoding: total on any bytes, rejecting by name -/

/-- The three encoded interfaces (30_encoding.md). -/
inductive Port where
  | wire
  | host
  | label
  deriving DecidableEq, Repr

/-- Why bytes do not decode. -/
inductive Reject where
  /-- The bytes end before the instruction does (40_codec.md R112). -/
  | needMore
  /-- The trailer disagrees (R110). -/
  | checksumMismatch
  /-- The label names a step whose operands stand at another interface (30_encoding.md R81, labels 01, 02, 10, 11). -/
  | operandsElsewhere (label : Byte)
  /-- The label value is unused (R81). -/
  | unusedLabel (label : Byte)
  deriving DecidableEq, Repr

/-- What the decoder answers: the instruction and the bytes after it, or why there is none. -/
inductive Decoded where
  | ok (i : Instr) (rest : List Byte)
  | reject (r : Reject)
  deriving DecidableEq, Repr

/-- The receive line's bytes (R70-R75). -/
def decodeWire (start : Byte) (bs : List Byte) : Decoded :=
  match decodeStream start bs with
  | none                        => .reject .needMore
  | some (.checksumMismatch, _) => .reject .checksumMismatch
  | some (.invalidStart, n)     =>
    .ok (classifyHeader start (bs.getD 0 0#8) (bs.getD 1 0#8) (bs.getD 2 0#8) (bs.getD 3 0#8) []) (bs.drop n)
  | some (.frame f, n)          =>
    .ok (classifyHeader start (bs.getD 0 0#8) f.id f.ack f.size f.data) (bs.drop n)

/-- The host port's bytes (R79, R80). -/
def decodeHost : List Byte → Decoded
  | []         => .reject .needMore
  | op :: rest =>
    if op = 0x01#8 then
      if rest.length < 4 then .reject .needMore
      else if (rest.drop 4).length < (be32At rest 0).toNat then .reject .needMore
      else .ok (.hostWrite ((rest.drop 4).take (be32At rest 0).toNat)) ((rest.drop 4).drop (be32At rest 0).toNat)
    else if op = 0x02#8 then
      if rest.length < 4 then .reject .needMore else .ok (.hostRead (be32At rest 0)) (rest.drop 4)
    else .ok (.hostReserved op) rest

/-- The step labels that name an instruction without operands (R81). -/
def labelTable : List (Byte × Instr) :=
  [(0x20#8, .tick), (0x30#8, .advHandoff), (0x31#8, .advAbandon), (0x40#8, .resendTry), (0x50#8, .ackHandoff),
   (0x80#8, .rxByte), (0x81#8, .rxIoerr), (0x90#8, .txByte), (0x91#8, .txErr), (0xA0#8, .tmrTick)]

/-- A step label (R81). -/
def decodeLabel : List Byte → Decoded
  | []        => .reject .needMore
  | b :: rest =>
    match labelTable.lookup b with
    | some i => .ok i rest
    | none   => if b ∈ [0x01#8, 0x02#8, 0x10#8, 0x11#8] then .reject (.operandsElsewhere b) else .reject (.unusedLabel b)

/-- The decoder: the interface says which encoding the bytes are in. -/
def decode (p : Port) (start : Byte) (bs : List Byte) : Decoded :=
  match p with
  | .wire  => decodeWire start bs
  | .host  => decodeHost bs
  | .label => decodeLabel bs

/-! ## Encoding -/

/-- The step label of 30_encoding.md R81. FRAME_BAD_START has none of its own (it is raised inside RX_BYTE), and a reserved
host opcode is no step. -/
def Instr.label : Instr → Option Byte
  | .frameAck _ _ _       => some 0x10#8
  | .frameData _ _ _ _    => some 0x11#8
  | .frameBadStart _ _ _ _ => none
  | .hostWrite _          => some 0x01#8
  | .hostRead _           => some 0x02#8
  | .hostReserved _       => none
  | .tick                 => some 0x20#8
  | .advHandoff           => some 0x30#8
  | .advAbandon           => some 0x31#8
  | .resendTry            => some 0x40#8
  | .ackHandoff           => some 0x50#8
  | .rxByte               => some 0x80#8
  | .rxIoerr              => some 0x81#8
  | .txByte               => some 0x90#8
  | .txErr                => some 0x91#8
  | .tmrTick              => some 0xA0#8

/-- The interface an instruction comes in by. -/
def Instr.port : Instr → Port
  | .frameAck _ _ _        => .wire
  | .frameData _ _ _ _     => .wire
  | .frameBadStart _ _ _ _ => .wire
  | .hostWrite _           => .host
  | .hostRead _            => .host
  | .hostReserved _        => .host
  | .tick                  => .label
  | .advHandoff            => .label
  | .advAbandon            => .label
  | .resendTry             => .label
  | .ackHandoff            => .label
  | .rxByte                => .label
  | .rxIoerr               => .label
  | .txByte                => .label
  | .txErr                 => .label
  | .tmrTick               => .label

/-- The bytes of a well-formed instruction at its interface (30_encoding.md R70, R79, R81). -/
def encode (start : Byte) : Instr → List Byte
  | .frameAck ack size data     => encodeFrame start ⟨0#8, ack, size, data⟩
  | .frameData id ack size data => encodeFrame start ⟨id, ack, size, data⟩
  | .frameBadStart h0 h1 h2 h3  => [h0, h1, h2, h3]
  | .hostWrite data             => 0x01#8 :: (be32 (BitVec.ofNat 32 data.length) ++ data)
  | .hostRead n                 => 0x02#8 :: be32 n
  | .hostReserved opcode        => [opcode]
  | .tick                       => [0x20#8]
  | .advHandoff                 => [0x30#8]
  | .advAbandon                 => [0x31#8]
  | .resendTry                  => [0x40#8]
  | .ackHandoff                 => [0x50#8]
  | .rxByte                     => [0x80#8]
  | .rxIoerr                    => [0x81#8]
  | .txByte                     => [0x90#8]
  | .txErr                      => [0x91#8]
  | .tmrTick                    => [0xA0#8]

/-! ## The words of spec/opcode_table.json (log 14) -/

/-- Byte `k` of a number, byte 0 the least significant. -/
def numByte (w k : Nat) : Byte := BitVec.ofNat 8 (w >>> (8 * k))

/-- The command bytes at the host port that a table word stands for: five bytes, and as many zero payload bytes
as a HOST_WRITE's count says. -/
def tableCommand (w : Nat) : List Byte :=
  [numByte w 0, numByte w 1, numByte w 2, numByte w 3, numByte w 4] ++
    (if numByte w 0 = 0x01#8 then
      List.replicate (fromBe32 (numByte w 1) (numByte w 2) (numByte w 3) (numByte w 4)).toNat 0#8 else [])

/-- The held frame that a table's header word stands for: the payload is zero bytes. -/
def tableFrame (w : Nat) : Frame :=
  { id := numByte w 2, ack := numByte w 1, size := numByte w 0, data := List.replicate (numByte w 0).toNat 0#8 }

/-- The instruction of a table word. 32 bits are the header word `H` of 30_encoding.md R71, classified for a block whose
start marker is the word's own `S` (START_MARKER is open). 8 bits are a step label or else a host opcode, 40 bits a host
command. DESIGN CHOICE (log 14). -/
def decodeTableWord (nbits w : Nat) : Option Instr :=
  if nbits = 32 then
    some (classifyHeader (numByte w 3) (numByte w 3) (numByte w 2) (numByte w 1) (numByte w 0) (tableFrame w).data)
  else if nbits = 8 ∨ nbits = 40 then
    match (if nbits = 8 then decodeLabel [numByte w 0] else .reject .needMore) with
    | .ok i _   => some i
    | .reject _ =>
      match decodeHost (tableCommand w) with
      | .ok i _   => some i
      | .reject _ => none
  else none

end Sys2Proof
end

