-- ==== Sys2Proof/Machine/State.lean ====
section
/-!
DEFINITION. The state of the block (10_state.md R20-R33), the observation of a run (00_scope.md R10, 30_encoding.md R81),
the environment's inputs that wait (60_exceptions.md R229), and the reasons a step can stop. There is no addressed memory
(20_memory.md R50). Plain data throughout.
-/

namespace Sys2Proof.Machine

/-- `S.CTL` (R22). -/
inductive Ctl where
  | loop
  | advWait
  | resendTry
  | ackWait
  deriving DecidableEq, Repr

/-- `S.RX_PHASE` (R32). -/
inductive RxPhase where
  | hdr
  | pay
  | trl
  | hold
  deriving DecidableEq, Repr

/-- The kind of an error record (60_exceptions.md R220). -/
inductive ErrKind where
  | invalidStart
  | checksumMismatch
  | rxIoError
  | txError
  deriving DecidableEq, Repr

/-- A host operation that waits: the agent that issued it and its command bytes (44_host_interface.md R200). -/
structure HostReq where
  agent : Nat
  cmd   : List Byte
  deriving DecidableEq, Repr

/-- A host operation that the FSM has serviced, and its reply (30_encoding.md R79): a HOST_WRITE with the bytes it wrote, whose
number is the reply, or a HOST_READ with the bytes it was given. -/
inductive Reply where
  | wrote (agent : Nat) (data : List Byte)
  | read (agent : Nat) (data : List Byte)
  deriving DecidableEq, Repr

structure State where
  /-- `CFG.MTU` (R21). -/
  cfgMtu   : Byte
  /-- `CFG.RETRY` (R21), in microseconds (log 5). -/
  cfgRetry : Nat
  /-- `CFG.START` (R21). -/
  cfgStart : Byte
  /-- `S.CTL` (R22). -/
  ctl      : Ctl
  /-- `S.RET` (R23): `false` is 0, `true` is 1. -/
  ret      : Bool
  /-- `S.ACK_ID` (R24). -/
  ackId    : Byte
  /-- `S.OB` (R25), front first. -/
  ob       : List Byte
  /-- `S.IB` (R26), front first. -/
  ib       : List Byte
  /-- `S.PEND_V` (R27). -/
  pendV    : Bool
  /-- `S.PEND_ID` (R27). -/
  pendId   : Byte
  /-- `S.PEND_SIZE` (R27). -/
  pendSize : Byte
  /-- `S.PEND_DATA` (R27). -/
  pendData : List Byte
  /-- `S.LAST_V` (R28). -/
  lastV    : Bool
  /-- `S.LAST_ID` (R28). -/
  lastId   : Byte
  /-- `S.SEQ` (R29). -/
  seq      : Byte
  /-- `S.TICK_P` (R30). -/
  tickP    : Bool
  /-- `S.TMR_PHASE` (R31), in microseconds: the time left until the next tick (log 4). -/
  tmrPhase : Nat
  /-- `S.RX_PHASE` (R32). -/
  rxPhase  : RxPhase
  /-- `S.RX_BUF` (R32), first byte first. -/
  rxBuf    : List Byte
  /-- `S.RX_HOLD` (R32). -/
  rxHold   : Frame
  /-- `S.TX_BUSY` (R33). -/
  txBusy   : Bool
  /-- `S.TX_Q` (R33), next byte first. -/
  txQ      : List Byte
  /-- Observation: the bytes emitted on the transmit line, oldest first (00_scope.md R10). -/
  obsTx    : List Byte
  /-- Observation: the error records, oldest first (R10, R220). -/
  obsErr   : List ErrKind
  /-- The host operations serviced, with their replies, oldest first (R79, 44_host_interface.md R209). -/
  replies  : List Reply
  /-- The event history: the labels of the steps taken, oldest first (30_encoding.md R81). -/
  history  : List Byte
  /-- Environment: the bytes the channel offers, next first (43_pumps.md R182, R183). -/
  rxLine   : List Byte
  /-- Environment: the host operations that wait (44_host_interface.md R200). -/
  hostPort : List HostReq
  /-- The model's own: the host agent whose operation is serviced (log 10). -/
  hostSel  : Nat
  /-- The model's own: what happens next (log 6). -/
  agenda   : List Act
  /-- The model's own: the index of the next free value (log 6). -/
  freeCtr  : Nat
  deriving DecidableEq, Repr

/-- Why the machine stops in a fault. -/
inductive Fault where
  /-- Raised by a hand-off (ADV_HANDOFF, RESEND_TRY) of a pending frame whose size disagrees with its data, which "cannot be
  built and has no encoding" (40_codec.md R104). Safe: no run from reset reaches it (log 13). -/
  | unencodableFrame
  deriving DecidableEq, Repr

/-- Why the machine refuses. -/
inductive Refusal where
  /-- Raised by an arm of `exec` that has no meaning yet. Safe. No arm does. -/
  | notModelled (mnemonic : String)
  /-- Raised by HOST_RESERVED: "The block gives a reserved opcode no meaning, and a model refuses it" (30_encoding.md R78). Safe. -/
  | reservedHostOpcode (opcode : Byte)
  /-- Raised by a step, or by a `config` input, whose MTU is outside 1..255 or whose RETRY is 0: "A configuration outside
  these ranges is refused: the model takes no step from it" (70_reset_and_hazards.md R251). Safe. -/
  | illegalConfiguration (mtu retry : Nat)
  /-- Raised by an agenda entry with a label that names no step: "All other label values are unused" (30_encoding.md R81). Safe. -/
  | unusedStepLabel (label : Byte)
  deriving DecidableEq, Repr

/-- The machine right after reset (10_state.md R38, 70_reset_and_hazards.md R250), with the default configuration and the
open start marker, nothing observed yet and no input waiting. DESIGN CHOICE (log 3): the elements R38 calls unspecified
(`pendId`, `pendSize`, `pendData`, `lastId`, `rxHold`) are zero and empty; unsafe. -/
def State.reset : State where
  cfgMtu   := Config.defaultMtu
  cfgRetry := Config.defaultRetry
  cfgStart := Config.startMarker
  ctl      := .loop
  ret      := false
  ackId    := 0#8
  ob       := []
  ib       := []
  pendV    := false
  pendId   := 0#8
  pendSize := 0#8
  pendData := []
  lastV    := false
  lastId   := 0#8
  seq      := 1#8
  tickP    := false
  tmrPhase := Config.firstTickDelay 0 + 1
  rxPhase  := .hdr
  rxBuf    := []
  rxHold   := ⟨0#8, 0#8, 0#8, []⟩
  txBusy   := false
  txQ      := []
  obsTx    := []
  obsErr   := []
  replies  := []
  history  := []
  rxLine   := []
  hostPort := []
  hostSel  := 0
  agenda   := []
  freeCtr  := 1

end Sys2Proof.Machine
end

