-- ==== Sys2Proof/Machine/Ops.lean ====
section
/-!
DEFINITION. The named operations the meanings share: the primitives of 00_scope.md R12, the error record, SeqNext,
CONTINUE, ADVANCE, Handoff, the decoder's byte step and reset.
-/

namespace Sys2Proof.Machine

/-! ## Codes and views -/

/-- The code of `S.CTL` (10_state.md R22). -/
def Ctl.code : Ctl → BitVec 2
  | .loop      => 0#2
  | .advWait   => 1#2
  | .resendTry => 2#2
  | .ackWait   => 3#2

/-- The code of an error record (60_exceptions.md R220). -/
def ErrKind.code : ErrKind → Byte
  | .invalidStart     => 1#8
  | .checksumMismatch => 2#8
  | .rxIoError        => 3#8
  | .txError          => 4#8

/-- The response bytes of a reply (30_encoding.md R79). A write of more than `2^32 - 1` bytes has no command, and its count here is
the low 32 bits (log 9). -/
def Reply.bytes : Reply → List Byte
  | .wrote _ data => be32 (BitVec.ofNat 32 data.length)
  | .read _ data  => be32 (BitVec.ofNat 32 data.length) ++ data

/-- The host agent a reply goes to. -/
def Reply.agent : Reply → Nat
  | .wrote a _ => a
  | .read a _  => a

/-- The bytes a reply gives to a READ. -/
def Reply.readData : Reply → List Byte
  | .wrote _ _   => []
  | .read _ data => data

/-- The bytes a WRITE brought. -/
def Reply.writtenData : Reply → List Byte
  | .wrote _ data => data
  | .read _ _     => []

/-- Observation: the bytes the host received from READ operations, in order (00_scope.md R10; `R_B` of 44_host_interface.md R209). -/
def State.obsRead (s : State) : List Byte := s.replies.flatMap Reply.readData

/-- The bytes the host has written in WRITE operations, in order (`W_A` of 44_host_interface.md R209). -/
def State.obsWritten (s : State) : List Byte := s.replies.flatMap Reply.writtenData

/-! ## Primitives (00_scope.md R12) -/

/-- `FifoAppend` (R12, 20_memory.md R51); it always succeeds (R52). -/
def fifoAppend (q d : List Byte) : List Byte := q ++ d

/-- `FifoTake` (R12, R51): the bytes taken, and the buffer after. -/
def fifoTake (q : List Byte) (k : Nat) : List Byte × List Byte := (q.take k, q.drop k)

/-- `raise`: append an error record and nothing else (R12, 60_exceptions.md R220, R226). There are no traps: no state is
saved, no mode changes and no control is transferred. -/
def raiseErr (e : ErrKind) (s : State) : State := { s with obsErr := s.obsErr ++ [e] }

/-- Append a step's label to the event history (30_encoding.md R81). -/
def logStep (label : Byte) (s : State) : State := { s with history := s.history ++ [label] }

/-- Reply to the host agent whose operation is serviced. -/
def replyWrote (data : List Byte) (s : State) : State := { s with replies := s.replies ++ [.wrote s.hostSel data] }

/-- Reply to the host agent whose operation is serviced. -/
def replyRead (data : List Byte) (s : State) : State := { s with replies := s.replies ++ [.read s.hostSel data] }

/-- The outcome of a step whose enabling condition does not hold: the agent waits, and nothing of the block changes
(00_scope.md R9, "no step"). DESIGN CHOICE (log 7). -/
def waits (s : State) : Host.Outcome State Fault Refusal := .next s

/-! ## The sequencer (41_sequencer.md) -/

/-- The value after `v` in the cycle 1..255 (R131). -/
def seqSucc (v : Byte) : Byte := if v = 255#8 then 1#8 else v + 1#8

/-- `SeqNext` (R131). -/
def seqNext (s : State) : Byte × State := (s.seq, { s with seq := seqSucc s.seq })

/-! ## Framing and hand-off (42_state_machine.md) -/

/-- CONTINUE (R154). -/
def continueTo (r : Bool) (s : State) : State := { s with ctl := if r then .resendTry else .loop }

/-- The number of bytes `advance` frames (R150). -/
def advanceCount (s : State) : Nat := min s.cfgMtu.toNat s.ob.length

/-- The branch of ADVANCE that builds a frame (R150). -/
def buildFrame (r : Bool) (s : State) : State :=
  let (d, rest) := fifoTake s.ob (advanceCount s)
  let (id, s') := seqNext s
  { s' with
    ob := rest, pendV := true, pendId := id, pendSize := BitVec.ofNat 8 (advanceCount s), pendData := d,
    ret := r, ctl := .advWait }

/-- ADVANCE (R150). -/
def advance (r : Bool) (s : State) : State :=
  if s.pendV ∨ s.ob.length = 0 then continueTo r s else buildFrame r s

/-- `Handoff` (R162): TXD takes the encoded frame in the same step. A frame whose size disagrees with its data has no
encoding (40_codec.md R104) and faults (log 13). -/
def handoff (f : Frame) (s : State) : Host.Outcome State Fault Refusal :=
  if f.wf then .next { s with txQ := encodeFrame s.cfgStart f, txBusy := true } else .fault .unencodableFrame

/-- A hand-off and then the rest of the step. -/
def handoffThen (f : Frame) (k : State → State) (s : State) : Host.Outcome State Fault Refusal :=
  match handoff f s with
  | .next t    => .next (k t)
  | .fault r   => .fault r
  | .refused r => .refused r

/-! ## The decoder's step (40_codec.md R106-R113) -/

/-- The end of an attempt with a bad start (R107): the record, and the four bytes discarded. -/
def rejectStart (s : State) : State := { raiseErr .invalidStart s with rxBuf := [], rxPhase := .hdr }

/-- The end of an attempt with a bad trailer (R110). -/
def rejectTrailer (s : State) : State := { raiseErr .checksumMismatch s with rxBuf := [], rxPhase := .hdr }

/-- The end of an attempt by an I/O error (R113). -/
def abortAttempt (s : State) : State := { raiseErr .rxIoError s with rxBuf := [], rxPhase := .hdr }

/-- The end of an attempt with a frame (R110). -/
def holdFrame (f : Frame) (s : State) : State := { s with rxHold := f, rxBuf := [], rxPhase := .hold }

/-- `RX_BYTE(b)` (R106-R110), after the byte `b` is taken from the line. -/
def acceptByte (b : Byte) (s : State) : State :=
  let buf := s.rxBuf ++ [b]
  match s.rxPhase with
  | .hdr =>
    if buf.length = 4 then
      if buf.getD 0 0#8 ≠ s.cfgStart then rejectStart s
      else if buf.getD 3 0#8 = 0#8 then { s with rxBuf := buf, rxPhase := .trl }
      else { s with rxBuf := buf, rxPhase := .pay }
    else { s with rxBuf := buf }
  | .pay =>
    if buf.length = 4 + (buf.getD 3 0#8).toNat then { s with rxBuf := buf, rxPhase := .trl }
    else { s with rxBuf := buf }
  | .trl =>
    if buf.length = 8 + (buf.getD 3 0#8).toNat then
      if trailerGood buf then holdFrame (frameAt buf) s else rejectTrailer s
    else { s with rxBuf := buf }
  | .hold => s

/-! ## Reset (70_reset_and_hazards.md R250, R251, R253) -/

/-- MTU in 1..255 and RETRY positive (R251). -/
def legalConfig (mtu retry : Nat) : Bool := decide (1 ≤ mtu ∧ mtu ≤ 255 ∧ 0 < retry)

/-- Whether the latched configuration is legal (R251). -/
def State.configured (s : State) : Bool := legalConfig s.cfgMtu.toNat s.cfgRetry

/-- Reset, while the block runs or not: every element of R38 at once. The observation goes on (R10), and what waits outside
the block still waits (log 12). A block that is sending emits bytes of any value (R253, log 11). DESIGN CHOICE (log 11): they are
indexed by this block's own `freeCtr`, so the free bytes of two blocks with equal counters are equal. -/
def applyReset (mtu : Byte) (retry : Nat) (start : Byte) (s : State) : State :=
  { s with
    cfgMtu := mtu, cfgRetry := retry, cfgStart := start,
    ctl := .loop, ret := false, ackId := 0#8, ob := [], ib := [],
    pendV := false, pendId := 0#8, pendSize := 0#8, pendData := [], lastV := false, lastId := 0#8,
    seq := 1#8, tickP := false, tmrPhase := Config.firstTickDelay s.freeCtr + 1,
    rxPhase := .hdr, rxBuf := [], rxHold := ⟨0#8, 0#8, 0#8, []⟩, txBusy := false, txQ := [],
    obsTx := s.obsTx ++ (if s.txBusy then Config.resetBytes s.freeCtr else []),
    freeCtr := s.freeCtr + 1 }

end Sys2Proof.Machine
end

