-- ==== Sys2Proof/Machine/Operands.lean ====
section
/-!
DEFINITION. Where the operands of a step stand: the frames the FSM builds, the held frame, the offered byte, and the
command at the host port.
-/

namespace Sys2Proof.Machine

/-- The data frame handed to TXD, on a first send or a resend (42_state_machine.md R160). -/
def pendFrame (s : State) : Frame := { id := s.pendId, ack := 0#8, size := s.pendSize, data := s.pendData }

/-- The acknowledgment frame handed to TXD (R161). -/
def ackFrame (s : State) : Frame := { id := 0#8, ack := s.ackId, size := 0#8, data := [] }

/-- The next byte completes a header with a bad start, so that RXD is about to end the attempt (40_codec.md R107). -/
def badHeader (s : State) : Bool :=
  decide (s.rxPhase = .hdr ∧ s.rxBuf.length = 3 ∧ s.rxBuf.getD 0 0#8 ≠ s.cfgStart)

/-- The most bytes a read gives (R143): `k`. -/
def readCount (n : U32) (s : State) : Nat := min n.toNat s.ib.length

/-- Whether the command bytes that wait hold a whole operation (30_encoding.md R79; log 9). -/
def HostReq.complete (q : HostReq) : Bool :=
  match decodeHost q.cmd with
  | .ok _ _   => true
  | .reject _ => false

/-- Whether the FSM can service the command that waits: it is whole, and its opcode is not reserved (30_encoding.md R80). -/
def HostReq.servable (q : HostReq) : Bool :=
  match decodeHost q.cmd with
  | .ok i _   => i.label.isSome
  | .reject _ => false

/-- The host agent's operation is taken from the port: bytes after the command stay as that agent's next command (log 9). -/
def grantHost (k : Nat) (q : HostReq) (rest : List Byte) (s : State) : State :=
  { s with
    hostSel := q.agent
    hostPort := if rest = [] then s.hostPort.eraseIdx k else s.hostPort.set k { q with cmd := rest } }

end Sys2Proof.Machine
end

