-- ==== Sys2Proof/Machine/Flags.lean ====
section
/-!
DEFINITION. The conditions the steps ask: there are no condition flags (10_state.md R20), so these are the views of
`S.PEND_V` (R35), the ready events (42_state_machine.md R140) and each step's enabling condition, as Bools.
-/

namespace Sys2Proof.Machine

/-- AwaitingAck (10_state.md R35); Idle is its negation. -/
def awaitingAck (s : State) : Bool := s.pendV

/-- `tx_ready` (10_state.md R33). -/
def txReady (s : State) : Bool := !s.txBusy

/-- The FSM is ready to service one event (42_state_machine.md R140). -/
def fsmReady (s : State) : Bool := s.ctl == .loop

/-- An acknowledgment of `a` answers the pending frame (R145). -/
def ackMatches (a : Byte) (s : State) : Bool := s.pendV && s.pendId == a

/-- A data frame with this id is a retransmitted duplicate (R146). -/
def isDuplicate (id : Byte) (s : State) : Bool := s.lastV && s.lastId == id

/-- FRAME_ACK and FRAME_DATA: the RX event of R140, with the held frame dispatched as the instruction `i` (R144). -/
def canTake (i : Instr) (s : State) : Bool := s.ctl == .loop && s.rxPhase == .hold && decide (s.rxHold.toInstr = i)

/-- TICK (R148). -/
def canTick (s : State) : Bool := s.ctl == .loop && s.tickP

/-- ADV_HANDOFF (R151). -/
def canAdvHandoff (s : State) : Bool := s.ctl == .advWait && txReady s

/-- ADV_ABANDON (R152). -/
def canAdvAbandon (s : State) : Bool := s.ctl == .advWait && s.tickP

/-- RESEND_TRY (R149). -/
def canResendTry (s : State) : Bool := s.ctl == .resendTry

/-- RESEND_TRY hands the pending frame over, and does not skip (R149). -/
def willResend (s : State) : Bool := s.pendV && txReady s

/-- ACK_HANDOFF (R147). -/
def canAckHandoff (s : State) : Bool := s.ctl == .ackWait && txReady s

/-- RXD takes input: it is not in phase HOLD (43_pumps.md R182). -/
def rxReading (s : State) : Bool := s.rxPhase != .hold

/-- TX_BYTE (43_pumps.md R185). -/
def canTxByte (s : State) : Bool := s.txBusy && !s.txQ.isEmpty

/-- TX_ERR (43_pumps.md R186). -/
def canTxErr (s : State) : Bool := s.txBusy

/-! ## The FSM's steps, one by one -/

/-- A step of the FSM (42_state_machine.md R140, R141). -/
inductive FsmStep where
  /-- Service the operation of this host agent (R142, R143). -/
  | service (agent : Nat)
  /-- Take the held frame (R144). -/
  | take
  | tick
  | advHandoff
  | advAbandon
  | resendTry
  | ackHandoff
  deriving DecidableEq, Repr

/-- Whether a step of the FSM is enabled (R140-R144, R147-R149, R151, R152). -/
def FsmStep.enabled (s : State) : FsmStep → Bool
  | .service a  => fsmReady s && s.hostPort.any (fun q => q.agent == a && q.servable)
  | .take       => fsmReady s && s.rxPhase == .hold
  | .tick       => canTick s
  | .advHandoff => canAdvHandoff s
  | .advAbandon => canAdvAbandon s
  | .resendTry  => canResendTry s
  | .ackHandoff => canAckHandoff s

end Sys2Proof.Machine
end

