-- ==== Sys2Proof/Machine/Fsm.lean ====
section
/-!
DEFINITION. The FSM's steps but for the host operations (42_state_machine.md R144-R152).
-/

namespace Sys2Proof.Machine

/-- FRAME_ACK: the held acknowledgment frame is taken (R144, R145). Its payload is ignored (30_encoding.md R76). -/
def execFrameAck (ack size : Byte) (data : List Byte) (s : State) : Host.Outcome State Fault Refusal :=
  if canTake (.frameAck ack size data) s then
    let s1 := { s with rxPhase := .hdr }
    .next (logStep 0x10#8
      (if ackMatches ack s1 then advance false { s1 with pendV := false } else { s1 with ctl := .loop }))
  else waits s

/-- The held data frame's payload is accepted as new (R146). -/
def acceptNew (id : Byte) (data : List Byte) (s : State) : State :=
  { s with ib := fifoAppend s.ib data, lastV := true, lastId := id }

/-- FRAME_DATA: the held data frame is taken (R144, R146). Its `ack` is ignored (30_encoding.md R76). -/
def execFrameData (id ack size : Byte) (data : List Byte) (s : State) : Host.Outcome State Fault Refusal :=
  if canTake (.frameData id ack size data) s then
    let s1 := { s with rxPhase := .hdr }
    let s2 := if isDuplicate id s1 then s1 else acceptNew id data s1
    .next (logStep 0x11#8 { s2 with ackId := id, ctl := .ackWait })
  else waits s

/-- TICK (R148). -/
def execTick (s : State) : Host.Outcome State Fault Refusal :=
  if canTick s then .next (logStep 0x20#8 (advance true { s with tickP := false })) else waits s

/-- ADV_HANDOFF (R151). -/
def execAdvHandoff (s : State) : Host.Outcome State Fault Refusal :=
  if canAdvHandoff s then handoffThen (pendFrame s) (fun t => logStep 0x30#8 (continueTo t.ret t)) s else waits s

/-- ADV_ABANDON (R152). -/
def execAdvAbandon (s : State) : Host.Outcome State Fault Refusal :=
  if canAdvAbandon s then .next (logStep 0x31#8 (continueTo s.ret { s with tickP := false })) else waits s

/-- RESEND_TRY (R149). -/
def execResendTry (s : State) : Host.Outcome State Fault Refusal :=
  if canResendTry s then
    if willResend s then handoffThen (pendFrame s) (fun t => logStep 0x40#8 { t with ctl := .loop }) s
    else .next (logStep 0x40#8 { s with ctl := .loop })
  else waits s

/-- ACK_HANDOFF (R147). -/
def execAckHandoff (s : State) : Host.Outcome State Fault Refusal :=
  if canAckHandoff s then handoffThen (ackFrame s) (fun t => logStep 0x50#8 { t with ctl := .loop }) s else waits s

end Sys2Proof.Machine
end

