-- ==== Sys2Proof/Machine/HostOps.lean ====
section
/-!
DEFINITION. The host operations (42_state_machine.md R142, R143; 30_encoding.md R78-R80).
-/

namespace Sys2Proof.Machine

/-- HOST_WRITE (R142). -/
def execHostWrite (data : List Byte) (s : State) : Host.Outcome State Fault Refusal :=
  if fsmReady s then
    .next (logStep 0x01#8 (advance false (replyWrote data { s with ob := fifoAppend s.ob data })))
  else waits s

/-- HOST_READ (R143). -/
def execHostRead (n : U32) (s : State) : Host.Outcome State Fault Refusal :=
  if fsmReady s then
    let (out, rest) := fifoTake s.ib (readCount n s)
    .next (logStep 0x02#8 (replyRead out { s with ib := rest }))
  else waits s

/-- HOST_RESERVED (30_encoding.md R78, R80): refused, no step and no reply. -/
def execHostReserved (opcode : Byte) (_s : State) : Host.Outcome State Fault Refusal :=
  .refused (.reservedHostOpcode opcode)

end Sys2Proof.Machine
end

