-- ==== Sys2Proof/Machine/Rxd.lean ====
section
/-!
DEFINITION. The receive datapath's steps (43_pumps.md R180-R184, 40_codec.md R106-R113).
-/

namespace Sys2Proof.Machine

/-- RX_BYTE (R183): one byte is taken from the line, if RXD reads and the channel offers one. -/
def execRxByte (s : State) : Host.Outcome State Fault Refusal :=
  if rxReading s then
    match s.rxLine with
    | []        => waits s
    | b :: rest => .next (logStep 0x80#8 (acceptByte b { s with rxLine := rest }))
  else waits s

/-- FRAME_BAD_START (40_codec.md R107): the RX_BYTE step whose byte `h3` completes the header `h0 h1 h2 h3`, where `h0` is not
the start marker. Its label is RX_BYTE's (spec/opcode_table.json: "raised inside RX_BYTE 0x80"; log 15). -/
def execFrameBadStart (h0 h1 h2 h3 : Byte) (s : State) : Host.Outcome State Fault Refusal :=
  if s.rxPhase = .hdr ∧ s.rxBuf = [h0, h1, h2] ∧ s.rxLine.head? = some h3 ∧ h0 ≠ s.cfgStart then
    .next (logStep 0x80#8 (rejectStart { s with rxLine := s.rxLine.tail }))
  else waits s

/-- RX_IOERR (R184): the channel signals a receive I/O failure. The strobe is not held for later (log 8). -/
def execRxIoerr (s : State) : Host.Outcome State Fault Refusal :=
  if rxReading s then .next (logStep 0x81#8 (abortAttempt s)) else waits s

end Sys2Proof.Machine
end

