-- ==== Sys2Proof/Machine/Timer.lean ====
section
/-!
DEFINITION. The retry timer's step (60_exceptions.md R232, R233).
-/

namespace Sys2Proof.Machine

/-- TMR_TICK (R232): always enabled; a tick while one is latched is lost (R233). DEDUCED (log 4): right after a tick the time
left until the next one is `CFG.RETRY`. -/
def execTmrTick (s : State) : Host.Outcome State Fault Refusal :=
  .next (logStep 0xA0#8 { s with tickP := true, tmrPhase := s.cfgRetry })

end Sys2Proof.Machine
end

