-- ==== Sys2Proof/Machine/Txd.lean ====
section
/-!
DEFINITION. The transmit datapath's steps (43_pumps.md R185-R187).
-/

namespace Sys2Proof.Machine

/-- TX_BYTE (R185): the channel takes the next byte. -/
def execTxByte (s : State) : Host.Outcome State Fault Refusal :=
  if s.txBusy then
    match s.txQ with
    | []        => waits s
    | b :: rest => .next (logStep 0x90#8 { s with obsTx := s.obsTx ++ [b], txQ := rest, txBusy := !rest.isEmpty })
  else waits s

/-- TX_ERR (R186): the channel signals a transmit I/O failure. -/
def execTxErr (s : State) : Host.Outcome State Fault Refusal :=
  if canTxErr s then .next (logStep 0x91#8 { raiseErr .txError s with txQ := [], txBusy := false }) else waits s

end Sys2Proof.Machine
end

