-- ==== Sys2Proof/Machine/Dispatch.lean ====
section
/-!
DEFINITION. One arm for each instruction: a direct call of its meaning.
-/

namespace Sys2Proof.Machine

def exec (i : Instr) (s : State) : Host.Outcome State Fault Refusal :=
  match i with
  | .frameAck ack size data => Sys2Proof.Machine.execFrameAck ack size data s
  | .frameData id ack size data => Sys2Proof.Machine.execFrameData id ack size data s
  | .frameBadStart h0 h1 h2 h3 => Sys2Proof.Machine.execFrameBadStart h0 h1 h2 h3 s
  | .hostWrite data => Sys2Proof.Machine.execHostWrite data s
  | .hostRead n => Sys2Proof.Machine.execHostRead n s
  | .hostReserved opcode => Sys2Proof.Machine.execHostReserved opcode s
  | .tick => Sys2Proof.Machine.execTick s
  | .advHandoff => Sys2Proof.Machine.execAdvHandoff s
  | .advAbandon => Sys2Proof.Machine.execAdvAbandon s
  | .resendTry => Sys2Proof.Machine.execResendTry s
  | .ackHandoff => Sys2Proof.Machine.execAckHandoff s
  | .rxByte => Sys2Proof.Machine.execRxByte s
  | .rxIoerr => Sys2Proof.Machine.execRxIoerr s
  | .txByte => Sys2Proof.Machine.execTxByte s
  | .txErr => Sys2Proof.Machine.execTxErr s
  | .tmrTick => Sys2Proof.Machine.execTmrTick s

end Sys2Proof.Machine
end

