-- ==== Sys2Proof/Machine/Fetch.lean ====
section
/-!
DEFINITION. What a step runs: the agenda says what happens next, and an agent's step is fetched where it stands, at the host
port, in the holding register, on the receive line, or by its label (42_state_machine.md R140, R141, 30_encoding.md R81).
-/

namespace Sys2Proof.Machine

/-- What is fetched: an instruction and the state it runs in; or an input of the environment (or a step that is not there to
take), already done; or a refusal. -/
inductive Fetched where
  | run (i : Instr) (s : State)
  | done (s : State)
  | refuse (r : Refusal)
  deriving DecidableEq, Repr

/-- The `k`-th host operation that waits. The command leaves the port only if the FSM can service it
(42_state_machine.md R141); an incomplete command is no operation yet (log 9). -/
def fetchHost (k : Nat) (s : State) : Fetched :=
  match s.hostPort[k]? with
  | none   => .done s
  | some q =>
    match decodeHost q.cmd with
    | .reject _  => .done s
    | .ok i rest => .run i (if fsmReady s then grantHost k q rest s else s)

/-- The held frame, dispatched on its `id` (R144). -/
def fetchHeld (s : State) : Fetched :=
  if s.rxPhase = .hold then .run s.rxHold.toInstr s else .done s

/-- The RX_BYTE step: FRAME_BAD_START where the offered byte completes a header with a bad start (log 15). -/
def fetchByte (s : State) : Fetched :=
  match s.rxLine with
  | []     => .run .rxByte s
  | b :: _ =>
    if badHeader s then
      .run (classifyHeader s.cfgStart (s.rxBuf.getD 0 0#8) (s.rxBuf.getD 1 0#8) (s.rxBuf.getD 2 0#8) b []) s
    else .run .rxByte s

/-- Keep a fetched instruction only if its label is `label`. -/
def ofLabel (label : Byte) (s : State) : Fetched → Fetched
  | .run i t  => if i.label = some label then .run i t else .done s
  | .done t   => .done t
  | .refuse r => .refuse r

/-- The step with a label (30_encoding.md R81). -/
def fetchLabel (b : Byte) (s : State) : Fetched :=
  if b = 0x01#8 ∨ b = 0x02#8 then ofLabel b s (fetchHost 0 s)
  else if b = 0x10#8 ∨ b = 0x11#8 then ofLabel b s (fetchHeld s)
  else if b = 0x80#8 then fetchByte s
  else
    match decodeLabel [b] with
    | .ok i _   => .run i s
    | .reject _ => .refuse (.unusedStepLabel b)

/-- The step a schedule names. -/
def fetchPick : Pick → State → Fetched
  | .serve k, s => fetchHost k s
  | .take, s    => fetchHeld s
  | .agent b, s => fetchLabel b s

/-- The eager schedule's FSM step in LOOP: the held frame, then the host operation, then the tick (30_encoding.md R83). DESIGN CHOICE
(log 18): of several host operations that wait, it is the first complete one in the order they were issued; R83 says only "the pending
host operation", and 44_host_interface.md R200 leaves the order open. -/
def eagerEvent (s : State) : Option Pick :=
  if s.rxPhase = .hold then some .take
  else
    match s.hostPort.findIdx? HostReq.complete with
    | some k => some (.serve k)
    | none   => if s.tickP then some (.agent 0x20#8) else none

/-- The eager schedule's FSM step. Where both exits of ADV_WAIT are enabled it takes the hand-off (log 18). -/
def eagerFsm (s : State) : Option Pick :=
  match s.ctl with
  | .loop      => eagerEvent s
  | .advWait   => if txReady s then some (.agent 0x30#8) else if s.tickP then some (.agent 0x31#8) else none
  | .resendTry => some (.agent 0x40#8)
  | .ackWait   => if txReady s then some (.agent 0x50#8) else none

/-- The next step of the eager schedule, `none` where no agent has an enabled step (30_encoding.md R83): TXD if it has a byte to
emit, otherwise RXD if it reads and a byte is offered, otherwise FSM. -/
def eagerPick (s : State) : Option Pick :=
  if canTxByte s then some (.agent 0x90#8)
  else if rxReading s && !s.rxLine.isEmpty then some (.agent 0x80#8)
  else eagerFsm s

/-- One thing the environment does. Every other element of the state is unchanged (20_memory.md R60, R61). -/
def fetchEnv : Env → State → Fetched
  | .issue a cmd, s =>
    -- a host agent has at most one operation outstanding (44_host_interface.md R200)
    .done { s with hostPort := if s.hostPort.any (fun q => q.agent == a) then s.hostPort else s.hostPort ++ [⟨a, cmd⟩] }
  | .offer bytes, s  => .done { s with rxLine := s.rxLine ++ bytes }
  | .drop i, s       => .done { s with rxLine := s.rxLine.eraseIdx i }
  | .alter i b, s    => .done { s with rxLine := s.rxLine.set i b }
  | .noise i b, s    => .done { s with rxLine := s.rxLine.take i ++ b :: s.rxLine.drop i }
  | .reset, s        => .done (applyReset s.cfgMtu s.cfgRetry s.cfgStart s)
  | .config mtu retry start, s =>
    if legalConfig mtu retry then .done (applyReset (BitVec.ofNat 8 mtu) retry start s)
    else .refuse (.illegalConfiguration mtu retry)

/-- One entry of the agenda, already taken off it. While the eager schedule has a step, `settle` goes back on. -/
def fetchAct : Act → State → Fetched
  | .pick p, s => fetchPick p s
  | .env e, s  => fetchEnv e s
  | .settle, s =>
    match eagerPick s with
    | some p => fetchPick p { s with agenda := .settle :: s.agenda }
    | none   => .done s

/-- What the next step runs. Where the agenda is empty the free schedule says (42_state_machine.md R140; log 6); no step is taken
from an illegal configuration (70_reset_and_hazards.md R251). -/
def fetch (s : State) : Fetched :=
  if s.configured then
    match s.agenda with
    | []        => fetchAct (Config.freeAct s.freeCtr) { s with freeCtr := s.freeCtr + 1 }
    | a :: rest => fetchAct a { s with agenda := rest }
  else .refuse (.illegalConfiguration s.cfgMtu.toNat s.cfgRetry)

/-! ## Placing an instruction of the opcode table where the next step fetches it (log 14) -/

/-- A frame is placed as a decoded frame that waits, its trailer checked (40_codec.md R110). -/
def placeHeld (f : Frame) (s : State) : State :=
  { s with rxPhase := .hold, rxHold := f, agenda := .pick .take :: s.agenda }

/-- A host command is placed first at the host port. -/
def placeCommand (cmd : List Byte) (s : State) : State :=
  { s with hostPort := ⟨0, cmd⟩ :: s.hostPort, agenda := .pick (.serve 0) :: s.agenda }

/-- A step label is placed as the agenda's next entry. -/
def placeLabel (b : Byte) (s : State) : State :=
  { s with agenda := .pick (.agent b) :: s.agenda }

/-- The word of spec/opcode_table.json that `decodeTableWord` reads, placed. -/
def placeWord (nbits w : Nat) (s : State) : State :=
  if nbits = 32 then placeHeld (tableFrame w) s
  else if nbits = 8 ∧ labelTable.any (fun r => r.1 == numByte w 0) then placeLabel (numByte w 0) s
  else if nbits = 8 ∨ nbits = 40 then placeCommand (tableCommand w) s
  else s

end Sys2Proof.Machine
end

