-- ==== Sys2Proof/Machine/Driver.lean ====
section
/-!
DEFINITION. The host driver's loops `Read` and `Write` (44_host_interface.md R203-R206), an agent outside the block that issues
operations at the host port and sees their replies.
-/

namespace Sys2Proof.Machine

/-- A call of the stream interface. -/
inductive Call where
  /-- `Read(buffer)`, whose buffer has length `len`. -/
  | read (len : U32)
  /-- `Write(buffer)`. -/
  | write (buffer : List Byte)
  deriving DecidableEq, Repr

/-- Where a call is. -/
inductive Driver where
  /-- About to issue its operation. -/
  | issuing (c : Call)
  /-- Its operation waits at the host port, or has just been serviced. -/
  | waiting (c : Call)
  /-- Between two polls: `wait 2 * CFG.RETRY`, which the model gives no duration (R203). -/
  | backoff (len : U32)
  /-- `Read` returned these bytes. -/
  | readDone (data : List Byte)
  /-- `Write` returned this count. -/
  | writeDone (n : U32)
  deriving DecidableEq, Repr

/-- The time between two polls, `2 * CFG.RETRY` (R203). No step depends on it (70_reset_and_hazards.md R267). -/
def backoffTime (s : State) : Nat := 2 * s.cfgRetry

/-- The one operation a call issues: HOST_READ of the buffer's length, or HOST_WRITE of all of it (R203, R204). DESIGN CHOICE (log 9):
a buffer of more than `2^32 - 1` bytes, for which 30_encoding.md R79 has no command, is issued with the low 32 bits of its length as
the count, so that the bytes past that count stand at the port as the agent's next command. -/
def Call.command : Call → Instr
  | .read len     => .hostRead len
  | .write buffer => .hostWrite buffer

/-- Whether the agent has an operation outstanding (R200). -/
def outstanding (agent : Nat) (s : State) : Bool := s.hostPort.any (fun q => q.agent == agent)

/-- The last reply to the agent. -/
def lastReply (agent : Nat) (s : State) : Option Reply := s.replies.reverse.find? (fun r => r.agent == agent)

/-- What the driver does with its reply (R203, R204). -/
def Driver.onReply (c : Call) : Option Reply → Driver
  | some (.read _ data) =>
    match c with
    | .read len => if data.length > 0 then .readDone data else .backoff len
    | .write _  => .waiting c
  | some (.wrote _ data) =>
    match c with
    | .read _  => .waiting c
    | .write _ => .writeDone (BitVec.ofNat 32 data.length)
  | none => .waiting c

/-- One step of the driver that calls as host agent `agent`, beside the block. How a buffer of more than `2^32 - 1` bytes is issued
is the model's choice (log 9, at `Call.command`). -/
def Driver.step (agent : Nat) : Driver → State → Driver × State
  | .issuing c, s =>
    if outstanding agent s then (.issuing c, s)
    else (.waiting c, { s with hostPort := s.hostPort ++ [⟨agent, encode s.cfgStart c.command⟩] })
  | .waiting c, s     => if outstanding agent s then (.waiting c, s) else (Driver.onReply c (lastReply agent s), s)
  | .backoff len, s   => (.issuing (.read len), s)
  | .readDone d, s    => (.readDone d, s)
  | .writeDone n, s   => (.writeDone n, s)

/-- The length of the buffer of the `Read` that the driver is in, none where it is in no `Read` (R203). -/
def Driver.readLength : Driver → Option U32
  | .issuing (.read len)  => some len
  | .issuing (.write _)   => none
  | .waiting (.read len)  => some len
  | .waiting (.write _)   => none
  | .backoff len          => some len
  | .readDone _           => none
  | .writeDone _          => none

/-- The call has returned. -/
def Driver.returned : Driver → Bool
  | .issuing _   => false
  | .waiting _   => false
  | .backoff _   => false
  | .readDone _  => true
  | .writeDone _ => true

end Sys2Proof.Machine
end

