-- ==== Sys2Proof/Machine/Link.lean ====
section
/-!
DEFINITION. Two blocks whose transmit lines feed each other's receive lines through channels (60_exceptions.md R235,
42_state_machine.md R166). What a channel still holds is what it offers the receiver, the receiving block's `rxLine`; it may drop,
corrupt or delay bytes and never reorders them (00_scope.md R15, 43_pumps.md R189). A channel may be given a capacity, and then
blocks when full (70_reset_and_hazards.md R258).
-/

namespace Sys2Proof.Machine

/-- An endpoint. -/
inductive Side where
  | a
  | b
  deriving DecidableEq, Repr

/-- What happens next at the link. -/
inductive LinkAct where
  /-- A step of one endpoint, or an input to it. -/
  | endpoint (side : Side) (x : Act)
  /-- Both ends are reset together, with no bytes of the old connection in the channels (R255). -/
  | resetBoth
  deriving DecidableEq, Repr

structure Link where
  a      : State
  b      : State
  /-- The most bytes either channel holds, `none` where it never blocks (R258; log 19). -/
  cap    : Option Nat
  /-- What happens next. -/
  agenda : List LinkAct
  deriving DecidableEq, Repr

/-- The other end. -/
def Side.peer : Side → Side
  | .a => .b
  | .b => .a

/-- The block at an end. -/
def Link.endAt (l : Link) : Side → State
  | .a => l.a
  | .b => l.b

/-- A channel that holds these bytes takes no more. -/
def channelFull (cap : Option Nat) (held : List Byte) : Bool :=
  match cap with
  | none   => false
  | some n => decide (n ≤ held.length)

/-- Whether an endpoint's own act may be taken: a channel brings only what the peer emitted (R15), a full channel takes no byte from
TX_BYTE (R258), and an endpoint's step is one step. DESIGN CHOICE (log 19): R258 says only that a full channel blocks TXD; noise
(R15), and the bytes of any value that a one-sided reset emits (R253), enter a full channel all the same, past its capacity. -/
def linkAllows (cap : Option Nat) (peer : State) : Act → Bool
  | .pick (.agent l)         => !(l == 0x90#8 && channelFull cap peer.rxLine)
  | .pick (.serve _)         => true
  | .pick .take              => true
  | .settle                  => false
  | .env (.offer _)          => false
  | .env (.issue _ _)        => true
  | .env (.drop _)           => true
  | .env (.alter _ _)        => true
  | .env (.noise _ _)        => true
  | .env .reset              => true
  | .env (.config _ _ _)     => true

/-- The peer, offered what this end has emitted in a step from `s` to `t`. -/
def carry (s t peer : State) : State :=
  { peer with rxLine := peer.rxLine ++ t.obsTx.drop s.obsTx.length }

/-- A step of one end, with `put` the link of the end and its peer after. -/
def sideStep (cap : Option Nat) (x : Act) (s peer : State) (put : State → State → Link) :
    Host.Outcome Link Fault Refusal :=
  if linkAllows cap peer x then
    match step { s with agenda := [x] } with
    | .next t    => .next (put t (carry s t peer))
    | .fault r   => .fault r
    | .refused r => .refused r
  else .next (put s peer)

/-- A block after both ends are reset: its channel is empty. -/
def freshEnd (s : State) : State :=
  { applyReset s.cfgMtu s.cfgRetry s.cfgStart s with rxLine := [] }

/-- Both ends reset together (R255). -/
def Link.fresh (l : Link) : Link := { l with a := freshEnd l.a, b := freshEnd l.b }

/-- One act at the link. -/
def Link.act (l : Link) : LinkAct → Host.Outcome Link Fault Refusal
  | .endpoint .a x => sideStep l.cap x l.a l.b (fun s p => { l with a := s, b := p })
  | .endpoint .b x => sideStep l.cap x l.b l.a (fun s p => { l with a := p, b := s })
  | .resetBoth     => .next l.fresh

/-- One step of the link: the act its agenda says, and nothing where the agenda is empty. -/
def Link.step (l : Link) : Host.Outcome Link Fault Refusal :=
  match l.agenda with
  | []        => .next l
  | x :: rest => Link.act { l with agenda := rest } x

end Sys2Proof.Machine
end

