-- ==== Sys2Proof/Safety.lean ====
section
/-!
DEFINITION. What counts as a safe run, in the terms claims use: the invariants of 10_state.md R36 and of the datapaths (R27, R32,
R33), when two states agree but for the elements R38 leaves unspecified, runs of
a block and of two joined blocks, and the fairness assumptions of 70_reset_and_hazards.md R266 (predicates on infinite runs: no step
depends on them).
-/

namespace Sys2Proof.Machine

/-! ## Invariants -/

/-- The configuration's ranges (10_state.md R21). -/
def State.ConfigOk (s : State) : Prop := s.cfgMtu ≠ 0#8 ∧ 0 < s.cfgRetry

/-- `PEND` (R27, R36 (ii)). -/
def State.PendOk (s : State) : Prop :=
  s.pendV = true → s.pendId ≠ 0#8 ∧ 1 ≤ s.pendSize.toNat ∧ s.pendSize.toNat ≤ s.cfgMtu.toNat ∧
    s.pendData.length = s.pendSize.toNat

/-- R36 (iii) and (vii). -/
def State.AdvWaitOk (s : State) : Prop := s.ctl = .advWait → s.pendV = true ∧ s.ret = false

/-- R36 (vi): Idle means nothing to send. -/
def State.IdleOk (s : State) : Prop := s.pendV = false → s.ob = []

/-- R36 (v), and the acknowledgment of R161: never id 0. -/
def State.IdsOk (s : State) : Prop := (s.lastV = true → s.lastId ≠ 0#8) ∧ (s.ctl = .ackWait → s.ackId ≠ 0#8)

/-- The bytes of a decode attempt against its phase (R32, 40_codec.md R106-R110). -/
def State.RxOk (s : State) : Prop :=
  match s.rxPhase with
  | .hdr  => s.rxBuf.length < 4
  | .pay  => 4 ≤ s.rxBuf.length ∧ s.rxBuf.length < 4 + (s.rxBuf.getD 3 0#8).toNat ∧ s.rxBuf.getD 0 0#8 = s.cfgStart
  | .trl  => 4 + (s.rxBuf.getD 3 0#8).toNat ≤ s.rxBuf.length ∧ s.rxBuf.length < 8 + (s.rxBuf.getD 3 0#8).toNat ∧
      s.rxBuf.getD 0 0#8 = s.cfgStart
  | .hold => s.rxBuf = [] ∧ s.rxHold.data.length = s.rxHold.size.toNat

/-- TXD is busy exactly while bytes are left, at most 263 of them (R33). -/
def State.TxOk (s : State) : Prop := (s.txBusy = true ↔ s.txQ ≠ []) ∧ s.txQ.length ≤ 263

/-- Every invariant. -/
structure State.Inv (s : State) : Prop where
  config  : s.ConfigOk
  seq     : s.seq ≠ 0#8
  pend    : s.PendOk
  advWait : s.AdvWaitOk
  idle    : s.IdleOk
  ids     : s.IdsOk
  rx      : s.RxOk
  tx      : s.TxOk

/-- A state from which the next step does not fault. -/
def State.Safe (s : State) : Prop := ∀ f, step s ≠ .fault f

/-! ## The elements R38 leaves unspecified -/

/-- The state with every element zeroed that is unspecified where it stands (10_state.md R38, 93_implementation_defined.md U18). -/
def State.specified (s : State) : State :=
  { s with
    pendId   := if s.pendV then s.pendId else 0#8
    pendSize := if s.pendV then s.pendSize else 0#8
    pendData := if s.pendV then s.pendData else []
    lastId   := if s.lastV then s.lastId else 0#8
    rxHold   := if s.rxPhase = .hold then s.rxHold else ⟨0#8, 0#8, 0#8, []⟩
    ackId    := if s.ctl = .ackWait then s.ackId else 0#8
    tmrPhase := 0 }

/-- An outcome's state, seen through a view. -/
def viewOutcome {α β : Type} (v : α → β) : Host.Outcome α Fault Refusal → Host.Outcome β Fault Refusal
  | .next s    => .next (v s)
  | .fault r   => .fault r
  | .refused r => .refused r

/-! ## The parts of the state, for frames -/

/-- The connection state the FSM owns (20_memory.md R60), less the tick latch, which TMR also writes (R62). -/
structure Connection where
  ctl      : Ctl
  ret      : Bool
  ackId    : Byte
  ob       : List Byte
  ib       : List Byte
  pendV    : Bool
  pendId   : Byte
  pendSize : Byte
  pendData : List Byte
  lastV    : Bool
  lastId   : Byte
  seq      : Byte
  deriving DecidableEq, Repr

def State.connection (s : State) : Connection where
  ctl := s.ctl
  ret := s.ret
  ackId := s.ackId
  ob := s.ob
  ib := s.ib
  pendV := s.pendV
  pendId := s.pendId
  pendSize := s.pendSize
  pendData := s.pendData
  lastV := s.lastV
  lastId := s.lastId
  seq := s.seq

/-- The configuration registers (10_state.md R21). -/
def State.configuration (s : State) : Byte × Nat × Byte := (s.cfgMtu, s.cfgRetry, s.cfgStart)

/-- The receive datapath (10_state.md R32). -/
def State.receiver (s : State) : RxPhase × List Byte × Frame := (s.rxPhase, s.rxBuf, s.rxHold)

/-- The transmit datapath (10_state.md R33). -/
def State.transmitter (s : State) : Bool × List Byte := (s.txBusy, s.txQ)

/-- What happens next: the agenda's first entry, or the free schedule's. -/
def State.nextAct (s : State) : Act :=
  match s.agenda with
  | []     => Config.freeAct s.freeCtr
  | a :: _ => a

/-- The next step is a reset (70_reset_and_hazards.md R250, R251). -/
def State.nextResets (s : State) : Bool :=
  match s.nextAct with
  | .pick _             => false
  | .settle             => false
  | .env .reset         => true
  | .env (.config _ _ _) => true
  | .env (.issue _ _)   => false
  | .env (.offer _)     => false
  | .env (.drop _)      => false
  | .env (.alter _ _)   => false
  | .env (.noise _ _)   => false

/-- The payload bytes the host has written and the peer has not acknowledged: the pending frame's, then the buffer's
(10_state.md R25, R27). -/
def State.unacknowledged (s : State) : List Byte := (if s.pendV then s.pendData else []) ++ s.ob

/-- The host port's bytes on their way in: given to READ operations, then the buffer's (10_state.md R26, 20_memory.md R51). -/
def State.delivered (s : State) : List Byte := s.obsRead ++ s.ib

/-- The bytes of the transmit line: emitted, then those TXD still holds (10_state.md R33). -/
def State.transmitted (s : State) : List Byte := s.obsTx ++ s.txQ

/-- The pending frame is sent whole and its acknowledgment is taken, with nothing else in between: ADV_HANDOFF, the channel takes
every byte, RXD holds the acknowledgment, FRAME_ACK (42_state_machine.md R165). -/
def ackRound (s : State) : Host.Outcome State Fault Refusal :=
  match exec .advHandoff s with
  | .next t    =>
    exec (.frameAck t.pendId 0#8 [])
      { t with txBusy := false, txQ := [], obsTx := t.obsTx ++ t.txQ, rxPhase := .hold, rxHold := ⟨0#8, t.pendId, 0#8, []⟩ }
  | .fault r   => .fault r
  | .refused r => .refused r

/-- `k` such rounds. -/
def ackRounds : Nat → State → Host.Outcome State Fault Refusal
  | 0, s     => .next s
  | k + 1, s =>
    match ackRound s with
    | .next t    => ackRounds k t
    | .fault r   => .fault r
    | .refused r => .refused r

/-- `k` times the same instruction, as `exec` runs it. -/
def execTimes (i : Instr) : Nat → State → Host.Outcome State Fault Refusal
  | 0, s     => .next s
  | k + 1, s =>
    match exec i s with
    | .next t    => execTimes i k t
    | .fault r   => .fault r
    | .refused r => .refused r

/-! ## Runs and fairness (70_reset_and_hazards.md R266) -/

/-- An infinite run of one block: each step does what some agenda says. -/
def IsRun (r : Nat → State) : Prop := ∀ n, ∃ ag, step { r n with agenda := ag } = .next (r (n + 1))

/-- Step `n` of a run takes the step with this label. -/
def Takes (r : Nat → State) (label : Byte) (n : Nat) : Prop := (r (n + 1)).history = (r n).history ++ [label]

/-- Step `n` of a run takes this step of the FSM. -/
def FsmStep.taken (r : Nat → State) (n : Nat) : FsmStep → Prop
  | .service a  => ∃ q, (r (n + 1)).replies = (r n).replies ++ [q] ∧ q.agent = a
  | .take       => Takes r 0x10#8 n ∨ Takes r 0x11#8 n
  | .tick       => Takes r 0x20#8 n
  | .advHandoff => Takes r 0x30#8 n
  | .advAbandon => Takes r 0x31#8 n
  | .resendTry  => Takes r 0x40#8 n
  | .ackHandoff => Takes r 0x50#8 n

/-- Something holds at infinitely many places of a run. -/
def InfinitelyOften (p : Nat → Prop) : Prop := ∀ n, ∃ m, n ≤ m ∧ p m

/-- A transmission of a frame: at step `n` it is handed to TXD (42_state_machine.md R162; log 20). -/
def Sends (r : Nat → State) (f : Frame) (n : Nat) : Prop :=
  (r n).txBusy = false ∧ (r (n + 1)).txBusy = true ∧ (r (n + 1)).txQ = encodeFrame (r n).cfgStart f

/-- Step `n` ends a decode attempt with this frame (40_codec.md R110): it has reached RXD whole, uncorrupted and aligned. -/
def Receives (r : Nat → State) (f : Frame) (n : Nat) : Prop :=
  (r n).rxPhase ≠ .hold ∧ (r (n + 1)).rxPhase = .hold ∧ (r (n + 1)).rxHold = f

/-- (F1) TMR_TICK is taken infinitely often. -/
def FairTimer (r : Nat → State) : Prop := InfinitelyOften (Takes r 0xA0#8)

/-- (F2) A TX_BYTE step that stays enabled is eventually taken; `takes` says when the channel takes a byte, which is part of its
enabling condition (43_pumps.md R185). -/
def FairTransmit (r : Nat → State) (takes : Nat → Bool) : Prop :=
  ∀ n, (∀ m, n ≤ m → canTxByte (r m) = true ∧ takes m = true) → ∃ m, n ≤ m ∧ Takes r 0x90#8 m

/-- (F3) for RXD: every enabled RX_BYTE step is eventually taken. RX_IOERR is the channel's doing and never owed (R184; log 20). -/
def FairReceive (r : Nat → State) : Prop :=
  ∀ n, rxReading (r n) = true → (r n).rxLine ≠ [] → ∃ m, n ≤ m ∧ Takes r 0x80#8 m

/-- (F3) for FSM: every enabled step is eventually taken, each by itself: that another is taken does not count for it (log 20). -/
def FairFsm (r : Nat → State) : Prop :=
  ∀ (x : FsmStep) (n : Nat), x.enabled (r n) = true → ∃ m, n ≤ m ∧ x.taken r m

/-- (F4) Of infinitely many transmissions of a frame at one end, at least one reaches the other end's RXD; so, counting from any
place of the run, infinitely many do. -/
def FairChannel (sender receiver : Nat → State) : Prop :=
  ∀ f : Frame, InfinitelyOften (Sends sender f) → InfinitelyOften (Receives receiver f)

/-- (F5) TXD is idle at infinitely many RESEND_TRY steps while a frame is pending. -/
def FairResend (r : Nat → State) : Prop :=
  (∃ n, ∀ m, n ≤ m → (r m).pendV = true) →
    InfinitelyOften (fun n => Takes r 0x40#8 n ∧ (r n).txBusy = false)

/-- A run of a block that the driver of this host agent calls: at each step the driver steps; or it stands still, and nobody else
issues an operation as this agent; or its call has returned and it makes the next one (44_host_interface.md R200, R203, R204). -/
def DrivenBy (agent : Nat) (d : Nat → Driver) (r : Nat → State) : Prop :=
  ∀ n, (d (n + 1), r (n + 1)) = Driver.step agent (d n) (r n) ∨
    (d (n + 1) = d n ∧ (outstanding agent (r (n + 1)) = true → outstanding agent (r n) = true)) ∨
    ((d n).returned = true ∧ r (n + 1) = r n ∧ ∃ c, d (n + 1) = .issuing c)

/-- (F6) A host agent that waits in `Read` for ever has infinitely many HOST_READ operations of its own serviced. -/
def FairPolling (agent : Nat) (d : Nat → Driver) (r : Nat → State) : Prop :=
  (∃ n, ∀ m, n ≤ m → (d m).readLength ≠ none) →
    InfinitelyOften (fun m => ∃ data, (r (m + 1)).replies = (r m).replies ++ [.read agent data])

/-! ## Joint runs of two blocks (42_state_machine.md R166, 44_host_interface.md R209) -/

/-- The run of one end. -/
def endRun (r : Nat → Link) (x : Side) : Nat → State := fun n => (r n).endAt x

/-- An act that resets an end. -/
def LinkAct.resets : LinkAct → Bool
  | .endpoint _ (.env .reset)          => true
  | .endpoint _ (.env (.config _ _ _)) => true
  | .endpoint _ (.env (.issue _ _))    => false
  | .endpoint _ (.env (.offer _))      => false
  | .endpoint _ (.env (.drop _))       => false
  | .endpoint _ (.env (.alter _ _))    => false
  | .endpoint _ (.env (.noise _ _))    => false
  | .endpoint _ (.pick _)              => false
  | .endpoint _ .settle                => false
  | .resetBoth                         => true

/-- An infinite run of a link: `acts n` is what happens at step `n`. -/
def IsLinkRun (acts : Nat → LinkAct) (r : Nat → Link) : Prop := ∀ n, Link.act (r n) (acts n) = .next (r (n + 1))

/-- A connection: both blocks are reset together and then run for ever, neither reset again (70_reset_and_hazards.md R255). -/
structure IsConnection (acts : Nat → LinkAct) (r : Nat → Link) : Prop where
  start   : ∃ l : Link, r 0 = l.fresh
  run     : IsLinkRun acts r
  noReset : ∀ n, (acts n).resets = false

/-- `W_A` of R209: what the hosts of an end have written since the reset. -/
def writtenSince (r : Nat → Link) (x : Side) (n : Nat) : List Byte :=
  (endRun r x n).obsWritten.drop (endRun r x 0).obsWritten.length

/-- `R_B` of R209: what the hosts of an end have read since the reset. -/
def readSince (r : Nat → Link) (x : Side) (n : Nat) : List Byte :=
  (endRun r x n).obsRead.drop (endRun r x 0).obsRead.length

/-- "No CRC collision on any accepted frame" (R209), from one end to the other: a frame that a decode attempt ends with is one the
peer has transmitted before, and the attempts come in the order of their transmissions. DESIGN CHOICE (log 20): noise or corruption
that makes up a whole good frame counts as a collision, also where it repeats an older frame. -/
def NoCollision (sender receiver : Nat → State) : Prop :=
  ∃ src : Nat → Nat, Monotone src ∧ ∀ n f, Receives receiver f n → src n < n ∧ Sends sender f (src n)

/-- The channel out of an end takes a byte: it is not full (43_pumps.md R185, 70_reset_and_hazards.md R258). -/
def Link.takesFrom (l : Link) (x : Side) : Bool := !channelFull l.cap (l.endAt x.peer).rxLine

/-- F1 to F5 at both ends of a joint run. -/
structure Fair (r : Nat → Link) : Prop where
  timer    : ∀ x, FairTimer (endRun r x)
  transmit : ∀ x, FairTransmit (endRun r x) (fun n => (r n).takesFrom x)
  receive  : ∀ x, FairReceive (endRun r x)
  fsm      : ∀ x, FairFsm (endRun r x)
  channel  : ∀ x : Side, FairChannel (endRun r x) (endRun r x.peer)
  resend   : ∀ x, FairResend (endRun r x)

end Sys2Proof.Machine
end

