-- ==== Sys2Proof/Certificates/Slice0/Obligations.lean ====
section
/-!
DEFINITION. The statements for the provers. Each docstring names the rule of spec/ it formalises; where a clause rests on a decision
of the spec (92_eei_decisions.md), on an inference the spec marks as derived, or on a log entry of the model, it says so.
A result is stated as a whole next state, so that it is a frame too: what the record update does not name is unchanged.
-/

open Sys2Proof Sys2Proof.Machine

/-! ## Encodings -/

/-- Words written out from the spec's encodings (30_encoding.md R70, R79, R81; 95_test_vectors.md) decode to what they stand for. -/
def Obligations.SpecWordsDecode : Prop :=
  decode .wire 0xA5#8 [0xA5#8, 0x00#8, 0x01#8, 0x00#8, 0x42#8, 0xEA#8, 0x07#8, 0x6A#8] = .ok (.frameAck 1#8 0#8 []) [] ∧
  decode .wire 0xA5#8 [0xA5#8, 0x01#8, 0x00#8, 0x02#8, 0x68#8, 0x69#8, 0x5F#8, 0xBD#8, 0xE4#8, 0x73#8] =
    .ok (.frameData 1#8 0#8 2#8 [0x68#8, 0x69#8]) [] ∧
  decode .wire 0xA5#8 [0x00#8, 0x11#8, 0x22#8, 0x33#8] = .ok (.frameBadStart 0x00#8 0x11#8 0x22#8 0x33#8) [] ∧
  decode .host 0xA5#8 [0x01#8, 0x00#8, 0x00#8, 0x00#8, 0x02#8, 0x68#8, 0x69#8] = .ok (.hostWrite [0x68#8, 0x69#8]) [] ∧
  decode .host 0xA5#8 [0x02#8, 0x00#8, 0x00#8, 0x00#8, 0x10#8] = .ok (.hostRead 16#32) [] ∧
  decode .host 0xA5#8 [0x03#8] = .ok (.hostReserved 0x03#8) [] ∧
  decode .label 0xA5#8 [0x31#8] = .ok .advAbandon [] ∧
  decode .label 0xA5#8 [0x91#8] = .ok .txErr [] ∧
  decode .label 0xA5#8 [0xA0#8] = .ok .tmrTick []

/-- Every well-formed instruction is read back from its encoding, whatever follows it, for every start marker
(30_encoding.md R70, R75, R79-R81; the frame case is 40_codec.md R115, which the spec marks derived). -/
def Obligations.DecodeReadsBackEveryEncoding : Prop :=
  ∀ (start : Byte) (i : Instr) (rest : List Byte), i.wf start = true →
    decode i.port start (encode start i ++ rest) = .ok i rest

/-- The other direction: bytes that decode are the encoding of a well-formed instruction of that interface, followed by the
rest; no other bytes stand for it. -/
def Obligations.EncodeWritesBackEveryDecoded : Prop :=
  ∀ (p : Port) (start : Byte) (bs rest : List Byte) (i : Instr), decode p start bs = .ok i rest →
    i.port = p ∧ i.wf start = true ∧ encode start i ++ rest = bs

/-- The classes of the encodings. Headers are classified by the start byte first, then by `id` (30_encoding.md R75 steps 1-3). "All
other label values are unused" (R81, decision D28): a label of no step is rejected by that name, and an agenda (log 6) that names one
is refused. -/
def Obligations.HeaderAndLabelClasses : Prop :=
  (∀ (start h0 h1 h2 h3 : Byte) (data : List Byte),
    (h0 ≠ start → classifyHeader start h0 h1 h2 h3 data = .frameBadStart h0 h1 h2 h3) ∧
    (h0 = start → h1 = 0#8 → classifyHeader start h0 h1 h2 h3 data = .frameAck h2 h3 data) ∧
    (h0 = start → h1 ≠ 0#8 → classifyHeader start h0 h1 h2 h3 data = .frameData h1 h2 h3 data)) ∧
  (∀ (b : Byte) (rest : List Byte) (start : Byte) (s : State) (more : List Act),
    b ∉ [0x01#8, 0x02#8, 0x10#8, 0x11#8, 0x20#8, 0x30#8, 0x31#8, 0x40#8, 0x50#8, 0x80#8, 0x81#8, 0x90#8, 0x91#8, 0xA0#8] →
    decode .label start (b :: rest) = .reject (.unusedLabel b) ∧
    (s.configured = true → s.agenda = .pick (.agent b) :: more → step s = .refused (.unusedStepLabel b)))

/-- The check values of 40_codec.md R101 (general knowledge and derived, by the spec's own marks; log 2). -/
def Obligations.CrcCheckValues : Prop :=
  crc32 [] = 0x00000000#32 ∧
  crc32 [0x31#8, 0x32#8, 0x33#8, 0x34#8, 0x35#8, 0x36#8, 0x37#8, 0x38#8, 0x39#8] = 0xCBF43926#32

/-- ENCODE (40_codec.md R103): the header, the payload, and the checksum of both, most significant byte first. -/
def Obligations.EncodeLaysOutFrame : Prop :=
  (∀ (start : Byte) (f : Frame), f.data.length = f.size.toNat →
    encodeFrame start f =
      [start, f.id, f.ack, f.size] ++ f.data ++
        [(crc32 ([start, f.id, f.ack, f.size] ++ f.data)).extractLsb' 24 8,
         (crc32 ([start, f.id, f.ack, f.size] ++ f.data)).extractLsb' 16 8,
         (crc32 ([start, f.id, f.ack, f.size] ++ f.data)).extractLsb' 8 8,
         (crc32 ([start, f.id, f.ack, f.size] ++ f.data)).extractLsb' 0 8] ∧
    (encodeFrame start f).length = 8 + f.size.toNat) ∧
  encodeFrame 0xA5#8 ⟨1#8, 0#8, 2#8, [0x68#8, 0x69#8]⟩ =
    [0xA5#8, 0x01#8, 0x00#8, 0x02#8, 0x68#8, 0x69#8, 0x5F#8, 0xBD#8, 0xE4#8, 0x73#8]

/-- Corruption (40_codec.md R116, which the spec marks derived, with G3 for the checksum): a changed start byte gives InvalidStart
after 4 bytes, and any change of one other byte but the size byte gives ChecksumMismatch after `8 + size`. R116 speaks of single
bits; the statement is of any change within one byte, which rests on the checksum's parameters (R100, log 2). -/
def Obligations.OneChangedByteIsRejected : Prop :=
  ∀ (start : Byte) (f : Frame) (j : Nat) (b : Byte) (rest : List Byte), f.data.length = f.size.toNat →
    j < 8 + f.size.toNat → (encodeFrame start f)[j]? ≠ some b →
    (j = 0 → decodeStream start ((encodeFrame start f).set j b ++ rest) = some (.invalidStart, 4)) ∧
    (j ≠ 0 → j ≠ 3 →
      decodeStream start ((encodeFrame start f).set j b ++ rest) = some (.checksumMismatch, 8 + f.size.toNat))

/-- The bytes each verdict consumes (40_codec.md R119, which the spec marks derived): never none, and as many as R107 and R110 say. -/
def Obligations.VerdictsConsume : Prop :=
  ∀ (start : Byte) (bs : List Byte) (v : Verdict) (n : Nat), decodeStream start bs = some (v, n) →
    0 < n ∧ n ≤ bs.length ∧ (v = .invalidStart ↔ n = 4) ∧ (v ≠ .invalidStart → n = 8 + (bs.getD 3 0#8).toNat)

/-- The byte-serial decoder gives the verdicts of the pure function (40_codec.md R117, which the spec marks derived): from phase HDR
with an empty buffer, the RX_BYTE steps on the bytes one attempt consumes end in that attempt's verdict, and change nothing else. -/
def Obligations.SerialDecoderAgreesWithPure : Prop :=
  ∀ (s : State) (bs tail : List Byte) (v : Verdict) (n : Nat),
    s.rxPhase = .hdr → s.rxBuf = [] → decodeStream s.cfgStart bs = some (v, n) → s.rxLine = bs.take n ++ tail →
    execTimes .rxByte n s =
      match v with
      | .invalidStart => .next { s with
          rxLine := tail, obsErr := s.obsErr ++ [.invalidStart],
          history := s.history ++ List.replicate n 0x80#8 }
      | .checksumMismatch => .next { s with
          rxLine := tail, obsErr := s.obsErr ++ [.checksumMismatch],
          history := s.history ++ List.replicate n 0x80#8 }
      | .frame f => .next { s with
          rxLine := tail, rxPhase := .hold, rxHold := f,
          history := s.history ++ List.replicate n 0x80#8 }

/-- With fewer bytes than an attempt needs there is no verdict (40_codec.md R112, decision D7): the decoder keeps them all, raises
nothing and holds no frame. -/
def Obligations.SerialDecoderWaits : Prop :=
  ∀ (s : State) (bs tail : List Byte),
    s.rxPhase = .hdr → s.rxBuf = [] → decodeStream s.cfgStart bs = none → s.rxLine = bs ++ tail →
    ∃ p, p ≠ .hold ∧ execTimes .rxByte bs.length s =
      .next { s with rxLine := tail, rxBuf := bs, rxPhase := p, history := s.history ++ List.replicate bs.length 0x80#8 }

/-! ## The sequencer -/

/-- SeqNext (41_sequencer.md R131). -/
def Obligations.SeqNextReturnsAndAdvances : Prop :=
  (∀ s : State,
    (seqNext s).1 = s.seq ∧
    (s.seq = 255#8 → (seqNext s).2 = { s with seq := 1#8 }) ∧
    (s.seq ≠ 255#8 → (seqNext s).2 = { s with seq := s.seq + 1#8 }) ∧
    (s.seq ≠ 0#8 → (seqNext s).1 ≠ 0#8 ∧ (seqNext s).2.seq ≠ 0#8)) ∧
  (seqNext State.reset).1 = 1#8 ∧
  (seqNext (seqNext State.reset).2).1 = 2#8 ∧
  (seqNext (seqNext (seqNext State.reset).2).2).1 = 3#8 ∧
  (seqNext (seqNext (seqNext State.reset).2).2).2.seq = 4#8

/-- The cycle law (41_sequencer.md R132, which the spec marks derived): the value `k` places after the first is `k mod 255 + 1`, and
255 calls from any legal value return every value 1..255 exactly once and come back to it. -/
def Obligations.SequenceCycles : Prop :=
  (∀ k : Nat, (seqSucc^[k] 1#8).toNat = k % 255 + 1) ∧
  (∀ v : Byte, v ≠ 0#8 → seqSucc^[255] v = v ∧ ∀ w : Byte, w ≠ 0#8 → ∃! k, k < 255 ∧ seqSucc^[k] v = w)

/-- The sequence counter moves only when a new frame is built, one place for each, and starts again only at a reset
(41_sequencer.md R133, R134). -/
def Obligations.SequenceMovesOnlyWithNewFrames : Prop :=
  (∀ s t : State, step s = .next t → s.nextResets = false →
    (t.seq = s.seq ∧ (t.pendV = true → s.pendV = true ∧ t.pendId = s.pendId)) ∨
    (t.seq = seqSucc s.seq ∧ t.pendV = true ∧ t.pendId = s.seq ∧ t.ctl = .advWait)) ∧
  (∀ s t : State, step s = .next t → s.nextResets = true → t.seq = 1#8) ∧
  State.reset.seq = 1#8

/-! ## Reset and configuration -/

/-- The state after reset (10_state.md R38, R21, 70_reset_and_hazards.md R250; most of the values are the spec's decision D24). The
defaults of the configuration are R21's, where the retry interval of 10 ms is 10000 by the model's unit, the microsecond (log 5); the
start marker is the open parameter (log 1); and that the time to the first tick is positive is decision D32 (the model's reading of
the timer phase is log 4). -/
def Obligations.ResetValues : Prop :=
  State.reset.cfgMtu = 200#8 ∧ State.reset.cfgRetry = 10000 ∧ State.reset.cfgStart = Config.startMarker ∧
  State.reset.ctl = .loop ∧ State.reset.ret = false ∧ State.reset.ackId = 0#8 ∧ State.reset.ob = [] ∧ State.reset.ib = [] ∧
  State.reset.pendV = false ∧ State.reset.lastV = false ∧ State.reset.seq = 1#8 ∧ State.reset.tickP = false ∧
  0 < State.reset.tmrPhase ∧
  State.reset.rxPhase = .hdr ∧ State.reset.rxBuf = [] ∧ State.reset.txBusy = false ∧ State.reset.txQ = []

/-- A reset of a running block (70_reset_and_hazards.md R250, R253, decisions D23, D24): every element takes its reset value at
once, whatever it was; the configuration stays; what was observed stays observed, and a block that was sending may have emitted
bytes of any value (log 11), an idle one none. That inputs still wait is log 12. -/
def Obligations.ResetWhileRunning : Prop :=
  ∀ (s : State) (more : List Act), s.configured = true → s.agenda = .env .reset :: more →
    ∃ t, step s = .next t ∧ t.configuration = s.configuration ∧
      t.ctl = .loop ∧ t.ret = false ∧ t.ackId = 0#8 ∧ t.ob = [] ∧ t.ib = [] ∧ t.pendV = false ∧ t.lastV = false ∧
      t.seq = 1#8 ∧ t.tickP = false ∧ 0 < t.tmrPhase ∧ t.rxPhase = .hdr ∧ t.rxBuf = [] ∧ t.txBusy = false ∧ t.txQ = [] ∧
      t.obsErr = s.obsErr ∧ t.replies = s.replies ∧ t.history = s.history ∧
      s.obsTx <+: t.obsTx ∧ (s.txBusy = false → t.obsTx = s.obsTx) ∧
      t.rxLine = s.rxLine ∧ t.hostPort = s.hostPort ∧ t.agenda = more

/-- Configuration (70_reset_and_hazards.md R251, decisions D3, D5): a legal one is latched by the reset it begins, an illegal one is
refused, and no step is taken from a state that holds an illegal one. -/
def Obligations.ConfigurationRefusedOrLatched : Prop :=
  (∀ (s : State) (more : List Act) (mtu retry : Nat) (start : Byte),
    s.configured = true → s.agenda = .env (.config mtu retry start) :: more →
    (1 ≤ mtu → mtu ≤ 255 → 0 < retry →
      ∃ t, step s = .next t ∧ t.cfgMtu.toNat = mtu ∧ t.cfgRetry = retry ∧ t.cfgStart = start ∧ t.ctl = .loop ∧ t.seq = 1#8) ∧
    (mtu = 0 ∨ 255 < mtu ∨ retry = 0 → step s = .refused (.illegalConfiguration mtu retry))) ∧
  (∀ s : State, s.cfgMtu = 0#8 ∨ s.cfgRetry = 0 →
    step s = .refused (.illegalConfiguration s.cfgMtu.toNat s.cfgRetry))

/-- Configuration registers are never written but by a reset (10_state.md R21, 60_exceptions.md R231). -/
def Obligations.ConfigurationIsConstant : Prop :=
  ∀ s t : State, step s = .next t → s.nextResets = false → t.configuration = s.configuration

/-! ## Host operations -/

/-- HOST_WRITE (42_state_machine.md R142 with ADVANCE(0), R150; the zero-length case is the spec's decision D31): the bytes are appended
and the reply says how many; a frame is built if none is pending and there is anything to send. The reply goes to the agent of
`hostSel`, which is the model's (log 10), and its count is the low 32 bits of the number, which from `2^32` bytes on is the model's
choice (log 9). -/
def Obligations.HostWriteAppendsAndAdvances : Prop :=
  ∀ (s : State) (data : List Byte), s.ctl = .loop →
    (s.pendV = true ∨ s.ob ++ data = [] →
      exec (.hostWrite data) s = .next { s with
        ob := s.ob ++ data, replies := s.replies ++ [.wrote s.hostSel data], history := s.history ++ [0x01#8] }) ∧
    (s.pendV = false → s.ob ++ data ≠ [] →
      exec (.hostWrite data) s = .next { s with
        ob := (s.ob ++ data).drop (min s.cfgMtu.toNat (s.ob ++ data).length),
        pendV := true, pendId := s.seq,
        pendSize := BitVec.ofNat 8 (min s.cfgMtu.toNat (s.ob ++ data).length),
        pendData := (s.ob ++ data).take (min s.cfgMtu.toNat (s.ob ++ data).length),
        seq := if s.seq = 255#8 then 1#8 else s.seq + 1#8, ret := false, ctl := .advWait,
        replies := s.replies ++ [.wrote s.hostSel data], history := s.history ++ [0x01#8] }) ∧
    (Reply.wrote s.hostSel data).bytes = be32 (BitVec.ofNat 32 data.length) ∧
    (data.length < 2 ^ 32 → (BitVec.ofNat 32 data.length).toNat = data.length)

/-- HOST_READ (42_state_machine.md R143, decisions D19, D21): the oldest `min(n, |IB|)` bytes go to the host, and only the inbound
buffer changes. With nothing to give the reply is empty and the buffer stays. -/
def Obligations.HostReadDrainsFront : Prop :=
  ∀ (s : State) (n : U32), s.ctl = .loop →
    exec (.hostRead n) s = .next { s with
      ib := s.ib.drop (min n.toNat s.ib.length),
      replies := s.replies ++ [.read s.hostSel (s.ib.take (min n.toNat s.ib.length))], history := s.history ++ [0x02#8] } ∧
    (Reply.read s.hostSel (s.ib.take (min n.toNat s.ib.length))).bytes =
      be32 (BitVec.ofNat 32 (min n.toNat s.ib.length)) ++ s.ib.take (min n.toNat s.ib.length)

/-- A reserved host opcode is refused, with no step and no reply (30_encoding.md R78, R80, decision D20), also when the FSM meets it
at the host port. -/
def Obligations.ReservedOpcodeRefused : Prop :=
  (∀ (s : State) (op : Byte), exec (.hostReserved op) s = .refused (.reservedHostOpcode op)) ∧
  (∀ (s : State) (op : Byte) (agent : Nat) (cmd : List Byte) (others : List HostReq) (more : List Act),
    op ≠ 0x01#8 → op ≠ 0x02#8 → s.configured = true → s.agenda = .pick (.serve 0) :: more →
    s.hostPort = ⟨agent, op :: cmd⟩ :: others → step s = .refused (.reservedHostOpcode op))

/-- A step that is not enabled changes nothing (42_state_machine.md R141, which the spec marks derived, and the enabling conditions of R144, R147-R149,
R151, R152, 43_pumps.md R183-R186): outside LOOP host operations, held frames and ticks wait, and a host operation stays at the port.
That waiting is a step which changes nothing is the model's choice (log 7). -/
def Obligations.StepsWaitWhereNotEnabled : Prop :=
  (∀ s : State, s.ctl ≠ .loop →
    (∀ data, exec (.hostWrite data) s = .next s) ∧ (∀ n, exec (.hostRead n) s = .next s) ∧
    (∀ ack size data, exec (.frameAck ack size data) s = .next s) ∧
    (∀ id ack size data, exec (.frameData id ack size data) s = .next s) ∧
    exec .tick s = .next s ∧
    (∀ more k q i rest, s.configured = true → s.agenda = .pick (.serve k) :: more → s.hostPort[k]? = some q →
      decodeHost q.cmd = .ok i rest → i.label ≠ none → step s = .next { s with agenda := more })) ∧
  (∀ s : State,
    (s.rxPhase ≠ .hold →
      (∀ ack size data, exec (.frameAck ack size data) s = .next s) ∧
      (∀ id ack size data, exec (.frameData id ack size data) s = .next s)) ∧
    (s.tickP = false → exec .tick s = .next s) ∧
    (s.ctl ≠ .advWait ∨ s.txBusy = true → exec .advHandoff s = .next s) ∧
    (s.ctl ≠ .advWait ∨ s.tickP = false → exec .advAbandon s = .next s) ∧
    (s.ctl ≠ .resendTry → exec .resendTry s = .next s) ∧
    (s.ctl ≠ .ackWait ∨ s.txBusy = true → exec .ackHandoff s = .next s) ∧
    (s.rxPhase = .hold ∨ s.rxLine = [] → exec .rxByte s = .next s) ∧
    (s.rxPhase = .hold → exec .rxIoerr s = .next s) ∧
    (s.txBusy = false ∨ s.txQ = [] → exec .txByte s = .next s) ∧
    (s.txBusy = false → exec .txErr s = .next s))

/-! ## Inbound frames -/

/-- RX_ACK (42_state_machine.md R145): an acknowledgment of the pending frame clears it and the next frame is built from what waits;
any other is ignored, an acknowledgment of id 0 always. The payload of a non-canonical one is discarded. -/
def Obligations.AckClearsPendingAndAdvances : Prop :=
  ∀ (s : State) (ack size : Byte) (data : List Byte),
    s.ctl = .loop → s.rxPhase = .hold → s.rxHold = ⟨0#8, ack, size, data⟩ →
    (s.pendV = true → s.pendId = ack → s.ob = [] →
      exec (.frameAck ack size data) s =
        .next { s with rxPhase := .hdr, pendV := false, history := s.history ++ [0x10#8] }) ∧
    (s.pendV = true → s.pendId = ack → s.ob ≠ [] →
      exec (.frameAck ack size data) s = .next { s with
        rxPhase := .hdr, ob := s.ob.drop (min s.cfgMtu.toNat s.ob.length),
        pendV := true, pendId := s.seq, pendSize := BitVec.ofNat 8 (min s.cfgMtu.toNat s.ob.length),
        pendData := s.ob.take (min s.cfgMtu.toNat s.ob.length),
        seq := if s.seq = 255#8 then 1#8 else s.seq + 1#8, ret := false, ctl := .advWait,
        history := s.history ++ [0x10#8] }) ∧
    (s.pendV = false ∨ s.pendId ≠ ack →
      exec (.frameAck ack size data) s = .next { s with rxPhase := .hdr, history := s.history ++ [0x10#8] }) ∧
    (s.PendOk → ack = 0#8 →
      exec (.frameAck ack size data) s = .next { s with rxPhase := .hdr, history := s.history ++ [0x10#8] })

/-- RX_DATA (42_state_machine.md R146; waiting in ACK_WAIT is the spec's decision D13): a frame whose id differs from the last accepted one is appended and
recorded, a duplicate is not, and both are acknowledged. The `ack` field is ignored. -/
def Obligations.DataFrameAcceptedOnce : Prop :=
  ∀ (s : State) (id ack size : Byte) (data : List Byte),
    s.ctl = .loop → s.rxPhase = .hold → s.rxHold = ⟨id, ack, size, data⟩ → id ≠ 0#8 →
    (s.lastV = true → s.lastId = id →
      exec (.frameData id ack size data) s = .next { s with
        rxPhase := .hdr, ackId := id, ctl := .ackWait, history := s.history ++ [0x11#8] }) ∧
    (s.lastV = false ∨ s.lastId ≠ id →
      exec (.frameData id ack size data) s = .next { s with
        rxPhase := .hdr, ib := s.ib ++ data, lastV := true, lastId := id, ackId := id, ctl := .ackWait,
        history := s.history ++ [0x11#8] })

/-- ACK_HANDOFF (42_state_machine.md R147, decision D13): the acknowledgment frame of R161 is handed to an idle TXD; while TXD is
busy the FSM waits, a latched tick or not (that waiting changes nothing is log 7). -/
def Obligations.AckHandoffSendsAck : Prop :=
  ∀ s : State, s.ctl = .ackWait →
    (s.txBusy = false → exec .ackHandoff s = .next { s with
      txQ := encodeFrame s.cfgStart ⟨0#8, s.ackId, 0#8, []⟩, txBusy := true, ctl := .loop,
      history := s.history ++ [0x50#8] }) ∧
    (s.txBusy = true → exec .ackHandoff s = .next s)

/-! ## Tick, resend and hand-off -/

/-- TICK (42_state_machine.md R148): the tick is consumed and `advance` runs with continuation RESEND_TRY. Where no frame pending
means nothing to send (10_state.md R36 (vi)) it builds no frame. -/
def Obligations.TickAdvancesThenResends : Prop :=
  ∀ s : State, s.ctl = .loop → s.tickP = true →
    (s.pendV = true ∨ s.ob = [] →
      exec .tick s = .next { s with tickP := false, ctl := .resendTry, history := s.history ++ [0x20#8] }) ∧
    (s.pendV = false → s.ob ≠ [] →
      exec .tick s = .next { s with
        tickP := false, ob := s.ob.drop (min s.cfgMtu.toNat s.ob.length),
        pendV := true, pendId := s.seq, pendSize := BitVec.ofNat 8 (min s.cfgMtu.toNat s.ob.length),
        pendData := s.ob.take (min s.cfgMtu.toNat s.ob.length),
        seq := if s.seq = 255#8 then 1#8 else s.seq + 1#8, ret := true, ctl := .advWait,
        history := s.history ++ [0x20#8] }) ∧
    (s.IdleOk → exec .tick s = .next { s with tickP := false, ctl := .resendTry, history := s.history ++ [0x20#8] })

/-- RESEND_TRY (42_state_machine.md R149): a pending frame is handed to an idle TXD again, the same frame; otherwise the resend is
skipped. Either way control returns to LOOP. -/
def Obligations.ResendTryHandsOverOrSkips : Prop :=
  ∀ s : State, s.ctl = .resendTry →
    (s.pendV = true → s.txBusy = false → s.pendData.length = s.pendSize.toNat →
      exec .resendTry s = .next { s with
        txQ := encodeFrame s.cfgStart ⟨s.pendId, 0#8, s.pendSize, s.pendData⟩, txBusy := true, ctl := .loop,
        history := s.history ++ [0x40#8] }) ∧
    (s.pendV = false ∨ s.txBusy = true →
      exec .resendTry s = .next { s with ctl := .loop, history := s.history ++ [0x40#8] })

/-- ADV_HANDOFF (42_state_machine.md R151): the new frame is handed to an idle TXD, stays pending, and control continues as S.RET
says. -/
def Obligations.AdvHandoffSendsNewFrame : Prop :=
  ∀ s : State, s.ctl = .advWait → s.pendData.length = s.pendSize.toNat →
    (s.txBusy = false → s.ret = false → exec .advHandoff s = .next { s with
      txQ := encodeFrame s.cfgStart ⟨s.pendId, 0#8, s.pendSize, s.pendData⟩, txBusy := true, ctl := .loop,
      history := s.history ++ [0x30#8] }) ∧
    (s.txBusy = false → s.ret = true → exec .advHandoff s = .next { s with
      txQ := encodeFrame s.cfgStart ⟨s.pendId, 0#8, s.pendSize, s.pendData⟩, txBusy := true, ctl := .resendTry,
      history := s.history ++ [0x30#8] })

/-- ADV_ABANDON (42_state_machine.md R152; consuming the tick is the spec's decision D10): the tick is consumed, the frame stays
pending and unsent, and control continues as S.RET says. With TXD idle the other exit is enabled as well (R153, decision D11). -/
def Obligations.TickAbandonsHandoff : Prop :=
  ∀ s : State, s.ctl = .advWait → s.tickP = true →
    (s.ret = false → exec .advAbandon s = .next { s with tickP := false, ctl := .loop, history := s.history ++ [0x31#8] }) ∧
    (s.ret = true → exec .advAbandon s = .next { s with tickP := false, ctl := .resendTry, history := s.history ++ [0x31#8] }) ∧
    (s.txBusy = false → s.pendData.length = s.pendSize.toNat →
      ∃ t, exec .advHandoff s = .next t ∧ t.tickP = true ∧ t.txBusy = true ∧ t.ctl ≠ .advWait)

/-- A pending frame whose size disagrees with its data has no encoding (40_codec.md R104), and its hand-off faults: the model's
choice (log 13). -/
def Obligations.UnencodablePendingFaults : Prop :=
  ∀ s : State, s.pendData.length ≠ s.pendSize.toNat → s.txBusy = false →
    (s.ctl = .advWait → exec .advHandoff s = .fault .unencodableFrame) ∧
    (s.ctl = .resendTry → s.pendV = true → exec .resendTry s = .fault .unencodableFrame)

/-! ## Receive datapath -/

/-- A bad start (40_codec.md R107): the fourth byte of a header whose first is not `CFG.START` ends the attempt with InvalidStart,
those 4 bytes are discarded, whatever bytes 1..3 are, and the decoder stays in phase HDR. -/
def Obligations.BadStartDiscardsHeader : Prop :=
  ∀ (s : State) (h0 h1 h2 h3 : Byte) (rest : List Byte),
    s.rxPhase = .hdr → s.rxBuf = [h0, h1, h2] → s.rxLine = h3 :: rest → h0 ≠ s.cfgStart →
    exec .rxByte s = .next { s with
      rxLine := rest, rxBuf := [], rxPhase := .hdr, obsErr := s.obsErr ++ [.invalidStart], history := s.history ++ [0x80#8] } ∧
    exec (.frameBadStart h0 h1 h2 h3) s = .next { s with
      rxLine := rest, rxBuf := [], rxPhase := .hdr, obsErr := s.obsErr ++ [.invalidStart], history := s.history ++ [0x80#8] }

/-- The header and payload phases (40_codec.md R106, R108): four bytes are collected and none is interpreted before the fourth; then exactly `size` payload
bytes, or none where `size = 0`; any size 1..255, one above the MTU too; then the trailer phase. -/
def Obligations.HeaderAndPayloadCollected : Prop :=
  ∀ (s : State) (b : Byte) (rest : List Byte), s.rxLine = b :: rest →
    (s.rxPhase = .hdr → s.rxBuf.length < 3 →
      exec .rxByte s = .next { s with rxLine := rest, rxBuf := s.rxBuf ++ [b], history := s.history ++ [0x80#8] }) ∧
    (∀ h1 h2, s.rxPhase = .hdr → s.rxBuf = [s.cfgStart, h1, h2] → b = 0#8 →
      exec .rxByte s = .next { s with
        rxLine := rest, rxBuf := [s.cfgStart, h1, h2, b], rxPhase := .trl, history := s.history ++ [0x80#8] }) ∧
    (∀ h1 h2, s.rxPhase = .hdr → s.rxBuf = [s.cfgStart, h1, h2] → b ≠ 0#8 →
      exec .rxByte s = .next { s with
        rxLine := rest, rxBuf := [s.cfgStart, h1, h2, b], rxPhase := .pay, history := s.history ++ [0x80#8] }) ∧
    (∀ h0 h1 h2 h3 data, s.rxPhase = .pay → s.rxBuf = [h0, h1, h2, h3] ++ data → data.length + 1 < h3.toNat →
      exec .rxByte s = .next { s with rxLine := rest, rxBuf := s.rxBuf ++ [b], history := s.history ++ [0x80#8] }) ∧
    (∀ h0 h1 h2 h3 data, s.rxPhase = .pay → s.rxBuf = [h0, h1, h2, h3] ++ data → data.length + 1 = h3.toNat →
      exec .rxByte s = .next { s with
        rxLine := rest, rxBuf := s.rxBuf ++ [b], rxPhase := .trl, history := s.history ++ [0x80#8] })

/-- The trailer and the verdict (40_codec.md R109, R110): three trailer bytes are collected, and at the fourth the checksum of the
header and the payload is compared with the big-endian value of the four. -/
def Obligations.TrailerDecidesVerdict : Prop :=
  (∀ (s : State) (h0 h1 h2 h3 b : Byte) (data trailer rest : List Byte),
    s.rxPhase = .trl → data.length = h3.toNat → s.rxBuf = [h0, h1, h2, h3] ++ data ++ trailer → s.rxLine = b :: rest →
    (trailer.length < 3 →
      exec .rxByte s = .next { s with rxLine := rest, rxBuf := s.rxBuf ++ [b], history := s.history ++ [0x80#8] }) ∧
    (∀ t0 t1 t2, trailer = [t0, t1, t2] → crc32 ([h0, h1, h2, h3] ++ data) ≠ fromBe32 t0 t1 t2 b →
      exec .rxByte s = .next { s with
        rxLine := rest, rxBuf := [], rxPhase := .hdr, obsErr := s.obsErr ++ [.checksumMismatch],
        history := s.history ++ [0x80#8] }) ∧
    (∀ t0 t1 t2, trailer = [t0, t1, t2] → crc32 ([h0, h1, h2, h3] ++ data) = fromBe32 t0 t1 t2 b →
      exec .rxByte s = .next { s with
        rxLine := rest, rxBuf := [], rxPhase := .hold, rxHold := ⟨h1, h2, h3, data⟩, history := s.history ++ [0x80#8] })) ∧
  fromBe32 0x5F#8 0xBD#8 0xE4#8 0x73#8 = 0x5FBDE473#32 ∧
  crc32 [0xA5#8, 0x01#8, 0x00#8, 0x02#8, 0x41#8, 0xC2#8] = 0x5AFF01F8#32 ∧
  fromBe32 0xB7#8 0x47#8 0x82#8 0xD8#8 = 0xB74782D8#32

/-- RX_IOERR (43_pumps.md R184, 40_codec.md R113, decision D16): while RXD reads, the attempt's bytes are discarded, RxIoError is
recorded, and the next byte starts a new header. In phase HOLD RXD takes no byte and no I/O error, and the held frame stays
(43_pumps.md R182, decision D15). -/
def Obligations.ReceiveFailureAbortsUnlessHolding : Prop :=
  (∀ s : State, s.rxPhase ≠ .hold →
    exec .rxIoerr s = .next { s with
      rxBuf := [], rxPhase := .hdr, obsErr := s.obsErr ++ [.rxIoError], history := s.history ++ [0x81#8] }) ∧
  (∀ s : State, s.rxPhase = .hold →
    exec .rxByte s = .next s ∧ exec .rxIoerr s = .next s ∧ ∀ h0 h1 h2 h3, exec (.frameBadStart h0 h1 h2 h3) s = .next s)

/-! ## Transmit datapath and timer -/

/-- TX_BYTE (43_pumps.md R185; when the channel takes a byte is decision D36): the next byte goes out, and TXD is ready again only
after the last one. TX_ERR (R186, decision D17): the rest of the frame is dropped, TxError is recorded, TXD is idle, and neither the
FSM nor the host sees it. An idle TXD emits nothing and fails at nothing (R187). -/
def Obligations.TransmitEmitsOrDrops : Prop :=
  ∀ s : State,
    (∀ b rest, s.txBusy = true → s.txQ = b :: rest →
      exec .txByte s = .next { s with
        obsTx := s.obsTx ++ [b], txQ := rest, txBusy := decide (rest ≠ []), history := s.history ++ [0x90#8] }) ∧
    (s.txBusy = true → exec .txErr s = .next { s with
      txQ := [], txBusy := false, obsErr := s.obsErr ++ [.txError], history := s.history ++ [0x91#8] }) ∧
    (s.txBusy = false → exec .txByte s = .next s ∧ exec .txErr s = .next s)

/-- TMR_TICK (60_exceptions.md R232, R233, decision D9): the tick latch is set, in every state; a second tick before the first is
consumed is lost. That the timer starts again from `CFG.RETRY` is the model's reading (log 4). -/
def Obligations.TimerTickLatches : Prop :=
  ∀ s : State,
    exec .tmrTick s = .next { s with tickP := true, tmrPhase := s.cfgRetry, history := s.history ++ [0xA0#8] } ∧
    (s.tickP = true → ∀ t, exec .tmrTick s = .next t → t.tickP = s.tickP)

/-! ## Frames -/

/-- RXD's steps touch neither the FSM's state, nor the tick latch, nor TXD, nor the host port (60_exceptions.md R226, 43_pumps.md
R188, 20_memory.md R60). -/
def Obligations.ReceiveStepsFrame : Prop :=
  ∀ (i : Instr) (s t : State),
    i = .rxByte ∨ i = .rxIoerr ∨ (∃ h0 h1 h2 h3, i = .frameBadStart h0 h1 h2 h3) → exec i s = .next t →
    t.connection = s.connection ∧ t.tickP = s.tickP ∧ t.tmrPhase = s.tmrPhase ∧ t.configuration = s.configuration ∧
    t.transmitter = s.transmitter ∧ t.obsTx = s.obsTx ∧ t.replies = s.replies ∧ t.hostPort = s.hostPort ∧
    t.hostSel = s.hostSel ∧ t.agenda = s.agenda ∧ t.freeCtr = s.freeCtr

/-- TXD's and TMR's steps touch neither the FSM's state but for the tick latch (TMR alone), nor RXD, nor the host port
(60_exceptions.md R226, 20_memory.md R60, R62). -/
def Obligations.TransmitAndTimerStepsFrame : Prop :=
  ∀ (i : Instr) (s t : State), i = .txByte ∨ i = .txErr ∨ i = .tmrTick → exec i s = .next t →
    t.connection = s.connection ∧ t.configuration = s.configuration ∧ t.receiver = s.receiver ∧ t.rxLine = s.rxLine ∧
    t.replies = s.replies ∧ t.hostPort = s.hostPort ∧ t.hostSel = s.hostSel ∧ t.agenda = s.agenda ∧ t.freeCtr = s.freeCtr ∧
    (i ≠ .tmrTick → t.tickP = s.tickP ∧ t.tmrPhase = s.tmrPhase) ∧
    (i = .tmrTick → t.transmitter = s.transmitter ∧ t.obsTx = s.obsTx ∧ t.obsErr = s.obsErr)

/-- The FSM's steps raise no error, emit no byte, and write the datapaths only by taking a frame or by a hand-off
(60_exceptions.md R226, 43_pumps.md R187, R188, 42_state_machine.md R144, R162); only the host operations reply. -/
def Obligations.FsmStepsFrame : Prop :=
  ∀ (i : Instr) (s t : State),
    (∀ h0 h1 h2 h3, i ≠ .frameBadStart h0 h1 h2 h3) →
    i ≠ .rxByte → i ≠ .rxIoerr → i ≠ .txByte → i ≠ .txErr → i ≠ .tmrTick → exec i s = .next t →
    t.configuration = s.configuration ∧ t.tmrPhase = s.tmrPhase ∧ t.rxBuf = s.rxBuf ∧ t.rxHold = s.rxHold ∧
    t.rxLine = s.rxLine ∧ t.obsTx = s.obsTx ∧ t.obsErr = s.obsErr ∧ t.hostPort = s.hostPort ∧ t.hostSel = s.hostSel ∧
    t.agenda = s.agenda ∧ t.freeCtr = s.freeCtr ∧
    (t.rxPhase = s.rxPhase ∨ (s.rxPhase = .hold ∧ t.rxPhase = .hdr ∧ i = s.rxHold.toInstr)) ∧
    (t.transmitter = s.transmitter ∨ (s.txBusy = false ∧ (i = .advHandoff ∨ i = .resendTry ∨ i = .ackHandoff))) ∧
    (t.tickP = s.tickP ∨ (s.tickP = true ∧ (i = .tick ∨ i = .advAbandon))) ∧
    (t.ib = s.ib ∨ (∃ n, i = .hostRead n) ∨ (∃ id ack size data, i = .frameData id ack size data)) ∧
    (t.replies = s.replies ∨ (∃ n, i = .hostRead n) ∨ (∃ data, i = .hostWrite data))

/-- What HOST and CHAN do changes nothing of the block and nothing observed (20_memory.md R60, R61; 60_exceptions.md R229). -/
def Obligations.EnvironmentLeavesBlock : Prop :=
  ∀ (s t : State) (e : Env), s.nextAct = .env e → s.nextResets = false → step s = .next t →
    t.connection = s.connection ∧ t.tickP = s.tickP ∧ t.tmrPhase = s.tmrPhase ∧ t.configuration = s.configuration ∧
    t.receiver = s.receiver ∧ t.transmitter = s.transmitter ∧ t.obsTx = s.obsTx ∧ t.obsErr = s.obsErr ∧
    t.replies = s.replies ∧ t.history = s.history

/-! ## One step -/

/-- A step runs the instruction decoded where it stands: a label of the agenda, a command at the host port (which leaves the port if
the FSM is in LOOP), the held frame, dispatched on its id (42_state_machine.md R144), or the offered byte. The labels of HOST_WRITE,
HOST_READ, RX_ACK and RX_DATA (30_encoding.md R81) run the first command at the port, or the held frame, if it is of that label, and
nothing otherwise (log 7). The agenda is the model's (log 6); so are that bytes after a command stay at the port as the agent's next
command (log 9), and `hostSel` (log 10). -/
def Obligations.StepRunsDecodedInstruction : Prop :=
  (∀ (s : State) (b : Byte) (i : Instr) (more : List Act),
    s.configured = true → s.agenda = .pick (.agent b) :: more → decode .label s.cfgStart [b] = .ok i [] → i ≠ .rxByte →
    step s = exec i { s with agenda := more }) ∧
  (∀ (s : State) (p : Pick) (k : Nat) (q : HostReq) (i : Instr) (rest : List Byte) (more : List Act),
    p = .serve k ∨ (k = 0 ∧ ∃ b, i.label = some b ∧ p = .agent b) →
    s.configured = true → s.agenda = .pick p :: more → s.hostPort[k]? = some q →
    decode .host s.cfgStart q.cmd = .ok i rest →
    (s.ctl = .loop → rest = [] →
      step s = exec i { s with agenda := more, hostSel := q.agent, hostPort := s.hostPort.eraseIdx k }) ∧
    (s.ctl = .loop → rest ≠ [] →
      step s = exec i { s with agenda := more, hostSel := q.agent, hostPort := s.hostPort.set k ⟨q.agent, rest⟩ }) ∧
    (s.ctl ≠ .loop → step s = exec i { s with agenda := more })) ∧
  (∀ (s : State) (p : Pick) (i : Instr) (bs : List Byte) (more : List Act),
    p = .take ∨ (∃ b, i.label = some b ∧ p = .agent b) →
    s.configured = true → s.agenda = .pick p :: more → s.rxPhase = .hold →
    decode .wire s.cfgStart bs = .ok i [] → encodeFrame s.cfgStart s.rxHold = bs → s.rxHold.wf = true →
    step s = exec i { s with agenda := more }) ∧
  (∀ (s : State) (b : Byte) (more : List Act), s.configured = true → s.agenda = .pick (.agent b) :: more →
    (b = 0x01#8 ∨ b = 0x02#8 →
      (∀ q i rest, s.hostPort.head? = some q → decode .host s.cfgStart q.cmd = .ok i rest → i.label ≠ some b) →
      step s = .next { s with agenda := more }) ∧
    (b = 0x10#8 ∨ b = 0x11#8 → (s.rxPhase = .hold → s.rxHold.toInstr.label ≠ some b) →
      step s = .next { s with agenda := more })) ∧
  (∀ (s : State) (b : Byte) (line : List Byte) (more : List Act),
    s.configured = true → s.agenda = .pick (.agent 0x80#8) :: more → s.rxLine = b :: line →
    (∀ h0 h1 h2, s.rxPhase = .hdr → s.rxBuf = [h0, h1, h2] → h0 ≠ s.cfgStart →
      step s = exec (.frameBadStart h0 h1 h2 b) { s with agenda := more }) ∧
    (s.rxPhase ≠ .hdr ∨ s.rxBuf.length ≠ 3 ∨ s.rxBuf.getD 0 0#8 = s.cfgStart →
      step s = exec .rxByte { s with agenda := more }))

/-- The eager schedule of 30_encoding.md R83 (decision D28). While an agent has an enabled step, `settle` takes one (one label more in
the history) or meets a reserved opcode: TXD's, otherwise RXD's, otherwise FSM's, and in LOOP the held frame, then the host operation,
then the tick; it ends exactly when TXD has no byte to emit, RXD no byte to take, and the FSM no step. The model's choices (log 18):
the first complete host operation of several, and the hand-off where both exits of ADV_WAIT are enabled. -/
def Obligations.EagerScheduleTakesEnabledSteps : Prop :=
  ∀ (s : State) (more : List Act), s.Inv → s.agenda = .settle :: more →
    -- it goes on while a step is enabled, and ends when none is
    ((canTxByte s = true ∨ (rxReading s = true ∧ s.rxLine ≠ []) ∨ ∃ x : FsmStep, x.enabled s = true) →
      (∃ op, step s = .refused (.reservedHostOpcode op)) ∨
      (∃ t l, step s = .next t ∧ t.history = s.history ++ [l] ∧ t.agenda = s.agenda)) ∧
    (eagerPick { s with agenda := more } = none →
      step s = .next { s with agenda := more } ∧ canTxByte s = false ∧ (rxReading s = false ∨ s.rxLine = []) ∧
        ∀ x : FsmStep, x.enabled s = false) ∧
    (canTxByte s = false → (rxReading s = false ∨ s.rxLine = []) → (∀ x : FsmStep, x.enabled s = false) →
      (s.ctl = .loop → ∀ q ∈ s.hostPort, q.complete = false) → step s = .next { s with agenda := more }) ∧
    -- TXD first
    (canTxByte s = true → step s = exec .txByte s) ∧
    -- otherwise RXD
    (∀ b line, canTxByte s = false → rxReading s = true → s.rxLine = b :: line →
      (∀ h0 h1 h2, s.rxPhase = .hdr → s.rxBuf = [h0, h1, h2] → h0 ≠ s.cfgStart →
        step s = exec (.frameBadStart h0 h1 h2 b) s) ∧
      (s.rxPhase ≠ .hdr ∨ s.rxBuf.length ≠ 3 ∨ s.rxBuf.getD 0 0#8 = s.cfgStart → step s = exec .rxByte s)) ∧
    -- otherwise FSM
    (canTxByte s = false → (rxReading s = false ∨ s.rxLine = []) →
      (s.ctl = .loop → s.rxPhase = .hold → step s = exec s.rxHold.toInstr s) ∧
      (∀ pre q post i rest, s.ctl = .loop → s.rxPhase ≠ .hold → s.hostPort = pre ++ q :: post →
        (∀ p ∈ pre, p.complete = false) → decode .host s.cfgStart q.cmd = .ok i rest →
        (rest = [] → step s = exec i { s with hostSel := q.agent, hostPort := pre ++ post }) ∧
        (rest ≠ [] → step s = exec i { s with hostSel := q.agent, hostPort := pre ++ ⟨q.agent, rest⟩ :: post })) ∧
      (s.ctl = .loop → s.rxPhase ≠ .hold → (∀ q ∈ s.hostPort, q.complete = false) → s.tickP = true →
        step s = exec .tick s) ∧
      (s.ctl = .advWait → s.txBusy = false → step s = exec .advHandoff s) ∧
      (s.ctl = .advWait → s.txBusy = true → s.tickP = true → step s = exec .advAbandon s) ∧
      (s.ctl = .resendTry → step s = exec .resendTry s) ∧
      (s.ctl = .ackWait → s.txBusy = false → step s = exec .ackHandoff s))

/-- FSM is never left without a possible next step for good (42_state_machine.md R159, 70_reset_and_hazards.md R257, the latter
derived by the spec): RESEND_TRY always has its step, and after a tick ADV_WAIT ends. -/
def Obligations.TickEndsAdvWait : Prop :=
  ∀ s : State, s.Inv →
    (s.ctl = .resendTry → ∃ t, exec .resendTry s = .next t ∧ t.ctl = .loop) ∧
    (s.ctl = .advWait → ∃ t u, exec .tmrTick s = .next t ∧ exec .advAbandon t = .next u ∧ u.ctl = .loop ∧ u.tickP = false ∧
      u.pendV = true ∧ u.pendId = s.pendId ∧ u.pendData = s.pendData)

/-- ACK_WAIT blocks the FSM while TXD is busy (70_reset_and_hazards.md R256, which the spec marks derived): no FSM step changes
anything, so ticks stay latched and host operations, held frames and the acknowledgment wait. -/
def Obligations.AckWaitBlocksWhileBusy : Prop :=
  ∀ (s t : State) (i : Instr), s.ctl = .ackWait → s.txBusy = true → exec i s = .next t →
    (∀ h0 h1 h2 h3, i ≠ .frameBadStart h0 h1 h2 h3) →
    i ≠ .rxByte → i ≠ .rxIoerr → i ≠ .txByte → i ≠ .txErr → i ≠ .tmrTick → t = s

/-! ## Invariants and whole-machine rules -/

/-- The invariants hold right after reset (10_state.md R36). -/
def Obligations.ResetIsInvariant : Prop := State.reset.Inv

/-- Every step keeps the invariants of 10_state.md R36 and of the datapaths, from every state that has them (derived, by the spec's
own mark). -/
def Obligations.StepKeepsInvariant : Prop :=
  ∀ s t : State, s.Inv → step s = .next t → t.Inv

/-- From a state with the invariants no step faults (40_codec.md R104, log 13), and none is refused but for a reserved opcode that
stands at the host port (30_encoding.md R80), an illegal configuration that is asked for (70_reset_and_hazards.md R251), or a label of
the agenda that is none of the fourteen of R81. -/
def Obligations.InvariantStatesAreSafe : Prop :=
  ∀ s : State, s.Inv → s.Safe ∧
    ((∃ t, step s = .next t) ∨
      (∃ op, op ≠ 0x01#8 ∧ op ≠ 0x02#8 ∧ (∃ q ∈ s.hostPort, q.cmd.head? = some op) ∧
        step s = .refused (.reservedHostOpcode op)) ∨
      (∃ mtu retry start, s.nextAct = .env (.config mtu retry start) ∧ (mtu = 0 ∨ 255 < mtu ∨ retry = 0) ∧
        step s = .refused (.illegalConfiguration mtu retry)) ∨
      (∃ b, s.nextAct = .pick (.agent b) ∧
        b ∉ [0x01#8, 0x02#8, 0x10#8, 0x11#8, 0x20#8, 0x30#8, 0x31#8, 0x40#8, 0x50#8, 0x80#8, 0x81#8, 0x90#8, 0x91#8, 0xA0#8] ∧
        step s = .refused (.unusedStepLabel b)))

/-- A pending frame is never abandoned (42_state_machine.md R155, which the spec marks derived, 90_conflicts.md C4): it stays as it is until
a held acknowledgment of its id is taken, or a reset. -/
def Obligations.PendingFrameNeverAbandoned : Prop :=
  ∀ s t : State, step s = .next t → s.nextResets = false → s.pendV = true →
    (t.pendV = true ∧ t.pendId = s.pendId ∧ t.pendSize = s.pendSize ∧ t.pendData = s.pendData) ∨
    (s.ctl = .loop ∧ s.rxPhase = .hold ∧ s.rxHold.id = 0#8 ∧ s.rxHold.ack = s.pendId ∧ t.rxPhase = .hdr)

/-- What TXD sends (20_memory.md R63, 43_pumps.md R187, 42_state_machine.md R156, R160, R161, R162): the transmit stream grows only by whole
canonical frames, the pending one or an acknowledgment, each handed over while TXD is idle; a transmit failure alone cuts a frame short. -/
def Obligations.TransmitStreamIsWholeFrames : Prop :=
  ∀ s t : State, s.Inv → step s = .next t → s.nextResets = false →
    t.transmitted = s.transmitted ∨
    (∃ f : Frame, f.canonical = true ∧ s.txBusy = false ∧
      ((s.pendV = true ∧ f = ⟨s.pendId, 0#8, s.pendSize, s.pendData⟩) ∨ (s.ctl = .ackWait ∧ f = ⟨0#8, s.ackId, 0#8, []⟩)) ∧
      t.transmitted = s.transmitted ++ encodeFrame s.cfgStart f) ∨
    (t.obsTx = s.obsTx ∧ t.txQ = [] ∧ t.obsErr = s.obsErr ++ [.txError])

/-- The inbound stream (20_memory.md R51, R54, 44_host_interface.md R202): what the host has read and can read changes only by the
payload of a new data frame, appended at the end; reading moves no byte out of order. -/
def Obligations.InboundStreamInOrder : Prop :=
  ∀ s t : State, step s = .next t → s.nextResets = false →
    t.delivered = s.delivered ∨
    (s.ctl = .loop ∧ s.rxPhase = .hold ∧ s.rxHold.id ≠ 0#8 ∧ ¬(s.lastV = true ∧ s.lastId = s.rxHold.id) ∧
      t.delivered = s.delivered ++ s.rxHold.data ∧ t.lastV = true ∧ t.lastId = s.rxHold.id)

/-- The outbound stream (20_memory.md R51, R54, 42_state_machine.md R142, R145, R150): what is written and not yet acknowledged grows only at
its end by a HOST_WRITE's bytes, shrinks only at its front by the acknowledged frame's, and is moved into frames in order. -/
def Obligations.OutboundStreamInOrder : Prop :=
  ∀ (i : Instr) (s t : State), exec i s = .next t →
    (t.unacknowledged = s.unacknowledged ∧ (∀ data, i = .hostWrite data → data = [] ∨ t = s)) ∨
    (∃ data, i = .hostWrite data ∧ t.unacknowledged = s.unacknowledged ++ data) ∨
    (∃ ack size data, i = .frameAck ack size data ∧ s.pendV = true ∧ s.pendId = ack ∧
      s.unacknowledged = s.pendData ++ t.unacknowledged)

/-- The observation only grows (00_scope.md R10, 30_encoding.md R81, 60_exceptions.md R225): no step takes back a byte emitted, a
record, a reply or a label, and one step appends at most one record, one reply and one label. -/
def Obligations.ObservationOnlyGrows : Prop :=
  ∀ s t : State, step s = .next t →
    s.obsTx <+: t.obsTx ∧ s.obsErr <+: t.obsErr ∧ s.replies <+: t.replies ∧ s.history <+: t.history ∧
    t.obsErr.length ≤ s.obsErr.length + 1 ∧ t.replies.length ≤ s.replies.length + 1 ∧
    t.history.length ≤ s.history.length + 1

/-- No step depends on an element that is unspecified where it stands (10_state.md R38: "No rule reads any of them while it is
unspecified", 93_implementation_defined.md U18; log 3, log 4): two states that differ only in such elements step alike. -/
def Obligations.UnspecifiedElementsNeverRead : Prop :=
  ∀ s t : State, s.specified = t.specified → s.AdvWaitOk →
    viewOutcome State.specified (step s) = viewOutcome State.specified (step t)

/-- MTU segmentation (42_state_machine.md R165, which the spec marks derived): a write into an idle block goes out in frames of
MTU bytes, in order, with successive ids, one after each acknowledgment; after `ceil(m / MTU)` of them nothing is left. -/
def Obligations.WriteIsSegmentedByMtu : Prop :=
  ∀ (s : State) (data : List Byte), s.Inv → s.ctl = .loop → s.txBusy = false → s.pendV = false → data ≠ [] →
    ∃ t, exec (.hostWrite data) s = .next t ∧
      (∀ j, j * s.cfgMtu.toNat < data.length →
        ∃ u, ackRounds j t = .next u ∧ u.pendV = true ∧ u.ctl = .advWait ∧
          u.pendData = (data.drop (j * s.cfgMtu.toNat)).take s.cfgMtu.toNat ∧ u.pendId = seqSucc^[j] s.seq ∧
          u.ob = data.drop ((j + 1) * s.cfgMtu.toNat)) ∧
      (∃ u, ackRounds ((data.length + s.cfgMtu.toNat - 1) / s.cfgMtu.toNat) t = .next u ∧
        u.pendV = false ∧ u.ob = [] ∧ u.ctl = .loop)

/-! ## Two endpoints and the host driver -/

/-- The cross-endpoint deadlock over blocking channels of finite capacity (70_reset_and_hazards.md R258, which the spec marks
derived; the capacity is the model's, log 19): both ends in ACK_WAIT, sending, holding a frame, and both channels full.
Then no step of FSM, RXD, TXD's TX_BYTE or TMR at either end lets either end emit, take a frame or leave ACK_WAIT. -/
def Obligations.FullChannelsDeadlock : Prop :=
  ∀ (l m : Link) (n : Nat) (side : Side) (p : Pick) (more : List LinkAct),
    l.cap = some n → n ≤ l.a.rxLine.length → n ≤ l.b.rxLine.length →
    l.a.ctl = .ackWait → l.b.ctl = .ackWait → l.a.txBusy = true → l.b.txBusy = true →
    l.a.rxPhase = .hold → l.b.rxPhase = .hold → l.agenda = .endpoint side (.pick p) :: more → p ≠ .agent 0x91#8 →
    Link.step l = .next m →
    m.a.connection = l.a.connection ∧ m.b.connection = l.b.connection ∧ m.a.receiver = l.a.receiver ∧
    m.b.receiver = l.b.receiver ∧ m.a.transmitter = l.a.transmitter ∧ m.b.transmitter = l.b.transmitter ∧
    m.a.rxLine = l.a.rxLine ∧ m.b.rxLine = l.b.rxLine ∧ m.cap = l.cap

/-- What one end emits is what the other is offered, in order (43_pumps.md R189, 60_exceptions.md R235, decision D33), from either end:
an act at one end changes nothing of the other end but the bytes its channel holds, and those only by the bytes emitted, at the end. -/
def Obligations.LinkCarriesEmittedBytes : Prop :=
  ∀ (l m : Link) (side : Side) (x : Act) (more : List LinkAct), l.agenda = .endpoint side x :: more → Link.step l = .next m →
    m.cap = l.cap ∧ m.agenda = more ∧
    ∃ bytes, (m.endAt side).obsTx = (l.endAt side).obsTx ++ bytes ∧
      m.endAt side.peer = { l.endAt side.peer with rxLine := (l.endAt side.peer).rxLine ++ bytes }

/-- Stream safety (44_host_interface.md R209, which the spec marks derived): of two blocks reset together, with no collision on any
accepted frame (the model's reading of that premise is log 20), what the hosts of one end have read, followed by what they can read,
is always a prefix of what the hosts of the other end have written, in both directions. -/
def Obligations.StreamsArePrefixes : Prop :=
  ∀ (acts : Nat → LinkAct) (r : Nat → Link), IsConnection acts r →
    (∀ x : Side, NoCollision (endRun r x) (endRun r x.peer)) →
    ∀ (x : Side) (n : Nat), readSince r x.peer n ++ (endRun r x.peer n).ib <+: writtenSince r x n

/-- End-to-end delivery under loss (42_state_machine.md R166, which the spec marks derived): of two blocks reset together, under the
fairness conditions F1 to F5 (70_reset_and_hazards.md R266; F6 is about reading, ReadersGetEveryByte) and with no collision (log 20),
every byte written at one end has some time been appended to the other end's inbound stream, exactly once and in the order written:
that stream then begins with all that was written, and is never more than what is written. -/
def Obligations.EveryWrittenByteArrives : Prop :=
  ∀ (acts : Nat → LinkAct) (r : Nat → Link), IsConnection acts r → Fair r →
    (∀ x : Side, NoCollision (endRun r x) (endRun r x.peer)) →
    ∀ (x : Side) (n : Nat), ∃ m, n ≤ m ∧
      writtenSince r x n <+: readSince r x.peer m ++ (endRun r x.peer m).ib ∧
      readSince r x.peer m ++ (endRun r x.peer m).ib <+: writtenSince r x m

/-- "Endpoint B's repeated Read calls must eventually yield exactly" what was written (42_state_machine.md R166, 44_host_interface.md
R203, 70_reset_and_hazards.md R266 with F6): where the driver of a host agent calls `Read` again and again, with buffers that are not
empty, every byte written at the other end is some time read, in order. -/
def Obligations.ReadersGetEveryByte : Prop :=
  ∀ (acts : Nat → LinkAct) (r : Nat → Link) (x : Side) (agent : Nat) (d : Nat → Driver), IsConnection acts r → Fair r →
    (∀ y : Side, NoCollision (endRun r y) (endRun r y.peer)) →
    DrivenBy agent d (endRun r x.peer) → outstanding agent (endRun r x.peer 0) = false → (∃ c, d 0 = .issuing c) →
    FairPolling agent d (endRun r x.peer) → InfinitelyOften (fun n => (d n).readLength ≠ none) →
    (∀ n, (d n).readLength ≠ some 0#32) →
    ∀ n : Nat, ∃ m, n ≤ m ∧ writtenSince r x n <+: readSince r x.peer m

/-- `Read` of an empty buffer never returns (44_host_interface.md R205, which the spec marks derived): its operation is answered with no
bytes, which is then the last reply to its agent, and on such a reply the driver only polls again, whatever the agent has read before. -/
def Obligations.ReadOfNothingNeverReturns : Prop :=
  (∀ s : State, s.ctl = .loop → ∃ t, exec (.hostRead 0#32) s = .next t ∧ t.ib = s.ib ∧
    t.replies = s.replies ++ [.read s.hostSel []] ∧ lastReply s.hostSel t = some (.read s.hostSel [])) ∧
  (∀ (agent : Nat) (d : Driver) (s : State),
    d = .issuing (.read 0#32) ∨ d = .waiting (.read 0#32) ∨ d = .backoff 0#32 →
    (d = .waiting (.read 0#32) → outstanding agent s = false → ∀ r, lastReply agent s = some r → r.readData = []) →
    (Driver.step agent d s).1 = .issuing (.read 0#32) ∨ (Driver.step agent d s).1 = .waiting (.read 0#32) ∨
      (Driver.step agent d s).1 = .backoff 0#32)

/-- `Write` issues one HOST_WRITE of all its bytes and returns their number (44_host_interface.md R201, R204): from an idle port,
the command is serviced in one FSM step in LOOP, and the driver's next step returns. -/
def Obligations.WriteReturnsItsLength : Prop :=
  ∀ (agent : Nat) (s : State) (buffer : List Byte), buffer.length < 2 ^ 32 → s.configured = true → s.ctl = .loop → s.hostPort = [] →
    ∃ t, (Driver.step agent (.issuing (.write buffer)) s).1 = .waiting (.write buffer) ∧
      step { (Driver.step agent (.issuing (.write buffer)) s).2 with agenda := [.pick (.serve 0)] } = .next t ∧
      t.hostPort = [] ∧ t.unacknowledged = s.unacknowledged ++ buffer ∧
      (Driver.step agent (.waiting (.write buffer)) t).1 = .writeDone (BitVec.ofNat 32 buffer.length)
end

