-- ==== Sys2Proof/Laws/Codec.lean ====
section
/-!
SUPPORT. Small facts about byte order, the checksum and the frame encoder, which the proofs cite instead of unfolding them.
-/

namespace Sys2Proof

@[simp] theorem be32_length (v : U32) : (be32 v).length = 4 := rfl

/-- A word is read back from its four bytes (00_scope.md R11). -/
@[simp] theorem fromBe32_be32 (v : U32) :
    fromBe32 (v.extractLsb' 24 8) (v.extractLsb' 16 8) (v.extractLsb' 8 8) (v.extractLsb' 0 8) = v := by
  apply BitVec.eq_of_getLsbD_eq
  intro i hi
  simp only [fromBe32, BitVec.getLsbD_or, BitVec.getLsbD_shiftLeft, BitVec.truncate_eq_setWidth,
    BitVec.getLsbD_setWidth, BitVec.getLsbD_extractLsb']
  rcases Nat.lt_or_ge i 8 with h | h
  · simp [h, hi, show i < 24 by omega, show i < 16 by omega]
  rcases Nat.lt_or_ge i 16 with h2 | h2
  · have : 8 + (i - 8) = i := by omega
    simp [this, hi, show ¬ i < 8 by omega, show i < 24 by omega, h2, show i - 8 < 8 by omega, show i - 8 < 32 by omega]
  rcases Nat.lt_or_ge i 24 with h3 | h3
  · have : 16 + (i - 16) = i := by omega
    simp [this, hi, show ¬ i < 8 by omega, show ¬ i < 16 by omega, h3, show i - 16 < 8 by omega,
      show i - 16 < 32 by omega, show ¬ i - 8 < 8 by omega]
  · have : 24 + (i - 24) = i := by omega
    simp [this, hi, show ¬ i < 8 by omega, show ¬ i < 16 by omega, show ¬ i < 24 by omega, show i - 24 < 8 by omega,
      show i - 24 < 32 by omega, show ¬ i - 8 < 8 by omega, show ¬ i - 16 < 8 by omega]

/-- Four bytes are written back from the word they make (R11). -/
@[simp] theorem be32_fromBe32 (b0 b1 b2 b3 : Byte) : be32 (fromBe32 b0 b1 b2 b3) = [b0, b1, b2, b3] := by
  have z : ∀ (b : Byte) (k : Nat), 8 ≤ k → b.getLsbD k = false := fun b k h => BitVec.getLsbD_of_ge b k h
  simp only [be32, List.cons.injEq, and_true]
  refine ⟨?_, ?_, ?_, ?_⟩ <;> apply BitVec.eq_of_getLsbD_eq <;> intro i hi <;>
    simp only [fromBe32, BitVec.getLsbD_or, BitVec.getLsbD_shiftLeft, BitVec.truncate_eq_setWidth,
      BitVec.getLsbD_setWidth, BitVec.getLsbD_extractLsb']
  · rw [z b1 (24 + i - 16) (by omega), z b2 (24 + i - 8) (by omega), z b3 (24 + i) (by omega)]
    simp [hi, show i < 32 by omega, show 24 + i < 32 by omega]
  · rw [z b2 (16 + i - 8) (by omega), z b3 (16 + i) (by omega)]
    simp [hi, show 16 + i < 32 by omega, show 16 + i < 24 by omega, show i < 32 by omega]
  · rw [z b3 (8 + i) (by omega)]
    simp [hi, show 8 + i < 32 by omega, show 8 + i < 24 by omega, show 8 + i < 16 by omega, show i < 32 by omega]
  · simp [hi, show i < 32 by omega, show i < 24 by omega, show i < 16 by omega]

/-- The trailer word at the front of four given bytes. -/
@[simp] theorem be32At_be32 (v : U32) (rest : List Byte) : be32At (be32 v ++ rest) 0 = v := by
  simp [be32At, be32]

/-- A trailer read behind other bytes. -/
theorem be32At_append (a b : List Byte) : be32At (a ++ b) a.length = be32At b 0 := by
  have e : ∀ k, (a ++ b)[a.length + k]? = b[k]? := fun k => by
    rw [List.getElem?_append_right (by omega)]; congr 1; omega
  have e0 : (a ++ b)[a.length]? = b[0]? := by simpa using e 0
  simp only [be32At, List.getD_eq_getElem?_getD, e, e0, Nat.zero_add]

/-- Four bytes at an index, written back. -/
theorem be32_be32At (bs : List Byte) (i : Nat) (h : i + 4 ≤ bs.length) : be32 (be32At bs i) = (bs.drop i).take 4 := by
  apply List.ext_getElem
  · simp; omega
  · intro k h1 h2
    have hk : k < 4 := by simpa using h1
    simp only [be32At, be32_fromBe32]
    match k, hk with
    | 0, _ => simp [List.getD_eq_getElem?_getD, show i < bs.length by omega]
    | 1, _ => simp [List.getD_eq_getElem?_getD, show i + 1 < bs.length by omega]
    | 2, _ => simp [List.getD_eq_getElem?_getD, show i + 2 < bs.length by omega]
    | 3, _ => simp [List.getD_eq_getElem?_getD, show i + 3 < bs.length by omega]

@[simp] theorem frameBody_length (start : Byte) (f : Frame) : (frameBody start f).length = 4 + f.data.length := by
  simp [frameBody]; omega

/-- A frame is eight bytes and its payload (30_encoding.md R70). -/
@[simp] theorem encodeFrame_length (start : Byte) (f : Frame) : (encodeFrame start f).length = 8 + f.data.length := by
  simp [encodeFrame]; omega

theorem Frame.wf_iff (f : Frame) : f.wf = true ↔ f.data.length = f.size.toNat := by simp [Frame.wf]

@[simp] theorem crcBits_succ (k : Nat) (c : U32) : crcBits (k + 1) c = crcBits k (crcBit c) := rfl

/-- The register after a sequence is computed from the register after its front. -/
theorem crc_foldl_append (c : U32) (a b : List Byte) :
    (a ++ b).foldl crcByte c = b.foldl crcByte (a.foldl crcByte c) := List.foldl_append

end Sys2Proof
end

