-- ==== Sys2Proof/Laws/State.lean ====
section
/-!
SUPPORT. One lemma for each field of State and each named update of it, so that no proof unfolds an update.
-/

namespace Sys2Proof.Machine

/-! ## raiseErr -/

@[simp] theorem raiseErr_cfgMtu (e : ErrKind) (s : State) : (raiseErr e s).cfgMtu = s.cfgMtu := rfl
@[simp] theorem raiseErr_cfgRetry (e : ErrKind) (s : State) : (raiseErr e s).cfgRetry = s.cfgRetry := rfl
@[simp] theorem raiseErr_cfgStart (e : ErrKind) (s : State) : (raiseErr e s).cfgStart = s.cfgStart := rfl
@[simp] theorem raiseErr_ctl (e : ErrKind) (s : State) : (raiseErr e s).ctl = s.ctl := rfl
@[simp] theorem raiseErr_ret (e : ErrKind) (s : State) : (raiseErr e s).ret = s.ret := rfl
@[simp] theorem raiseErr_ackId (e : ErrKind) (s : State) : (raiseErr e s).ackId = s.ackId := rfl
@[simp] theorem raiseErr_ob (e : ErrKind) (s : State) : (raiseErr e s).ob = s.ob := rfl
@[simp] theorem raiseErr_ib (e : ErrKind) (s : State) : (raiseErr e s).ib = s.ib := rfl
@[simp] theorem raiseErr_pendV (e : ErrKind) (s : State) : (raiseErr e s).pendV = s.pendV := rfl
@[simp] theorem raiseErr_pendId (e : ErrKind) (s : State) : (raiseErr e s).pendId = s.pendId := rfl
@[simp] theorem raiseErr_pendSize (e : ErrKind) (s : State) : (raiseErr e s).pendSize = s.pendSize := rfl
@[simp] theorem raiseErr_pendData (e : ErrKind) (s : State) : (raiseErr e s).pendData = s.pendData := rfl
@[simp] theorem raiseErr_lastV (e : ErrKind) (s : State) : (raiseErr e s).lastV = s.lastV := rfl
@[simp] theorem raiseErr_lastId (e : ErrKind) (s : State) : (raiseErr e s).lastId = s.lastId := rfl
@[simp] theorem raiseErr_seq (e : ErrKind) (s : State) : (raiseErr e s).seq = s.seq := rfl
@[simp] theorem raiseErr_tickP (e : ErrKind) (s : State) : (raiseErr e s).tickP = s.tickP := rfl
@[simp] theorem raiseErr_tmrPhase (e : ErrKind) (s : State) : (raiseErr e s).tmrPhase = s.tmrPhase := rfl
@[simp] theorem raiseErr_rxPhase (e : ErrKind) (s : State) : (raiseErr e s).rxPhase = s.rxPhase := rfl
@[simp] theorem raiseErr_rxBuf (e : ErrKind) (s : State) : (raiseErr e s).rxBuf = s.rxBuf := rfl
@[simp] theorem raiseErr_rxHold (e : ErrKind) (s : State) : (raiseErr e s).rxHold = s.rxHold := rfl
@[simp] theorem raiseErr_txBusy (e : ErrKind) (s : State) : (raiseErr e s).txBusy = s.txBusy := rfl
@[simp] theorem raiseErr_txQ (e : ErrKind) (s : State) : (raiseErr e s).txQ = s.txQ := rfl
@[simp] theorem raiseErr_obsTx (e : ErrKind) (s : State) : (raiseErr e s).obsTx = s.obsTx := rfl
@[simp] theorem raiseErr_obsErr (e : ErrKind) (s : State) : (raiseErr e s).obsErr = s.obsErr ++ [e] := rfl
@[simp] theorem raiseErr_replies (e : ErrKind) (s : State) : (raiseErr e s).replies = s.replies := rfl
@[simp] theorem raiseErr_history (e : ErrKind) (s : State) : (raiseErr e s).history = s.history := rfl
@[simp] theorem raiseErr_rxLine (e : ErrKind) (s : State) : (raiseErr e s).rxLine = s.rxLine := rfl
@[simp] theorem raiseErr_hostPort (e : ErrKind) (s : State) : (raiseErr e s).hostPort = s.hostPort := rfl
@[simp] theorem raiseErr_hostSel (e : ErrKind) (s : State) : (raiseErr e s).hostSel = s.hostSel := rfl
@[simp] theorem raiseErr_agenda (e : ErrKind) (s : State) : (raiseErr e s).agenda = s.agenda := rfl
@[simp] theorem raiseErr_freeCtr (e : ErrKind) (s : State) : (raiseErr e s).freeCtr = s.freeCtr := rfl

/-! ## logStep -/

@[simp] theorem logStep_cfgMtu (l : Byte) (s : State) : (logStep l s).cfgMtu = s.cfgMtu := rfl
@[simp] theorem logStep_cfgRetry (l : Byte) (s : State) : (logStep l s).cfgRetry = s.cfgRetry := rfl
@[simp] theorem logStep_cfgStart (l : Byte) (s : State) : (logStep l s).cfgStart = s.cfgStart := rfl
@[simp] theorem logStep_ctl (l : Byte) (s : State) : (logStep l s).ctl = s.ctl := rfl
@[simp] theorem logStep_ret (l : Byte) (s : State) : (logStep l s).ret = s.ret := rfl
@[simp] theorem logStep_ackId (l : Byte) (s : State) : (logStep l s).ackId = s.ackId := rfl
@[simp] theorem logStep_ob (l : Byte) (s : State) : (logStep l s).ob = s.ob := rfl
@[simp] theorem logStep_ib (l : Byte) (s : State) : (logStep l s).ib = s.ib := rfl
@[simp] theorem logStep_pendV (l : Byte) (s : State) : (logStep l s).pendV = s.pendV := rfl
@[simp] theorem logStep_pendId (l : Byte) (s : State) : (logStep l s).pendId = s.pendId := rfl
@[simp] theorem logStep_pendSize (l : Byte) (s : State) : (logStep l s).pendSize = s.pendSize := rfl
@[simp] theorem logStep_pendData (l : Byte) (s : State) : (logStep l s).pendData = s.pendData := rfl
@[simp] theorem logStep_lastV (l : Byte) (s : State) : (logStep l s).lastV = s.lastV := rfl
@[simp] theorem logStep_lastId (l : Byte) (s : State) : (logStep l s).lastId = s.lastId := rfl
@[simp] theorem logStep_seq (l : Byte) (s : State) : (logStep l s).seq = s.seq := rfl
@[simp] theorem logStep_tickP (l : Byte) (s : State) : (logStep l s).tickP = s.tickP := rfl
@[simp] theorem logStep_tmrPhase (l : Byte) (s : State) : (logStep l s).tmrPhase = s.tmrPhase := rfl
@[simp] theorem logStep_rxPhase (l : Byte) (s : State) : (logStep l s).rxPhase = s.rxPhase := rfl
@[simp] theorem logStep_rxBuf (l : Byte) (s : State) : (logStep l s).rxBuf = s.rxBuf := rfl
@[simp] theorem logStep_rxHold (l : Byte) (s : State) : (logStep l s).rxHold = s.rxHold := rfl
@[simp] theorem logStep_txBusy (l : Byte) (s : State) : (logStep l s).txBusy = s.txBusy := rfl
@[simp] theorem logStep_txQ (l : Byte) (s : State) : (logStep l s).txQ = s.txQ := rfl
@[simp] theorem logStep_obsTx (l : Byte) (s : State) : (logStep l s).obsTx = s.obsTx := rfl
@[simp] theorem logStep_obsErr (l : Byte) (s : State) : (logStep l s).obsErr = s.obsErr := rfl
@[simp] theorem logStep_replies (l : Byte) (s : State) : (logStep l s).replies = s.replies := rfl
@[simp] theorem logStep_history (l : Byte) (s : State) : (logStep l s).history = s.history ++ [l] := rfl
@[simp] theorem logStep_rxLine (l : Byte) (s : State) : (logStep l s).rxLine = s.rxLine := rfl
@[simp] theorem logStep_hostPort (l : Byte) (s : State) : (logStep l s).hostPort = s.hostPort := rfl
@[simp] theorem logStep_hostSel (l : Byte) (s : State) : (logStep l s).hostSel = s.hostSel := rfl
@[simp] theorem logStep_agenda (l : Byte) (s : State) : (logStep l s).agenda = s.agenda := rfl
@[simp] theorem logStep_freeCtr (l : Byte) (s : State) : (logStep l s).freeCtr = s.freeCtr := rfl

/-! ## replyWrote -/

@[simp] theorem replyWrote_cfgMtu (d : List Byte) (s : State) : (replyWrote d s).cfgMtu = s.cfgMtu := rfl
@[simp] theorem replyWrote_cfgRetry (d : List Byte) (s : State) : (replyWrote d s).cfgRetry = s.cfgRetry := rfl
@[simp] theorem replyWrote_cfgStart (d : List Byte) (s : State) : (replyWrote d s).cfgStart = s.cfgStart := rfl
@[simp] theorem replyWrote_ctl (d : List Byte) (s : State) : (replyWrote d s).ctl = s.ctl := rfl
@[simp] theorem replyWrote_ret (d : List Byte) (s : State) : (replyWrote d s).ret = s.ret := rfl
@[simp] theorem replyWrote_ackId (d : List Byte) (s : State) : (replyWrote d s).ackId = s.ackId := rfl
@[simp] theorem replyWrote_ob (d : List Byte) (s : State) : (replyWrote d s).ob = s.ob := rfl
@[simp] theorem replyWrote_ib (d : List Byte) (s : State) : (replyWrote d s).ib = s.ib := rfl
@[simp] theorem replyWrote_pendV (d : List Byte) (s : State) : (replyWrote d s).pendV = s.pendV := rfl
@[simp] theorem replyWrote_pendId (d : List Byte) (s : State) : (replyWrote d s).pendId = s.pendId := rfl
@[simp] theorem replyWrote_pendSize (d : List Byte) (s : State) : (replyWrote d s).pendSize = s.pendSize := rfl
@[simp] theorem replyWrote_pendData (d : List Byte) (s : State) : (replyWrote d s).pendData = s.pendData := rfl
@[simp] theorem replyWrote_lastV (d : List Byte) (s : State) : (replyWrote d s).lastV = s.lastV := rfl
@[simp] theorem replyWrote_lastId (d : List Byte) (s : State) : (replyWrote d s).lastId = s.lastId := rfl
@[simp] theorem replyWrote_seq (d : List Byte) (s : State) : (replyWrote d s).seq = s.seq := rfl
@[simp] theorem replyWrote_tickP (d : List Byte) (s : State) : (replyWrote d s).tickP = s.tickP := rfl
@[simp] theorem replyWrote_tmrPhase (d : List Byte) (s : State) : (replyWrote d s).tmrPhase = s.tmrPhase := rfl
@[simp] theorem replyWrote_rxPhase (d : List Byte) (s : State) : (replyWrote d s).rxPhase = s.rxPhase := rfl
@[simp] theorem replyWrote_rxBuf (d : List Byte) (s : State) : (replyWrote d s).rxBuf = s.rxBuf := rfl
@[simp] theorem replyWrote_rxHold (d : List Byte) (s : State) : (replyWrote d s).rxHold = s.rxHold := rfl
@[simp] theorem replyWrote_txBusy (d : List Byte) (s : State) : (replyWrote d s).txBusy = s.txBusy := rfl
@[simp] theorem replyWrote_txQ (d : List Byte) (s : State) : (replyWrote d s).txQ = s.txQ := rfl
@[simp] theorem replyWrote_obsTx (d : List Byte) (s : State) : (replyWrote d s).obsTx = s.obsTx := rfl
@[simp] theorem replyWrote_obsErr (d : List Byte) (s : State) : (replyWrote d s).obsErr = s.obsErr := rfl
@[simp] theorem replyWrote_replies (d : List Byte) (s : State) : (replyWrote d s).replies = s.replies ++ [.wrote s.hostSel d] := rfl
@[simp] theorem replyWrote_history (d : List Byte) (s : State) : (replyWrote d s).history = s.history := rfl
@[simp] theorem replyWrote_rxLine (d : List Byte) (s : State) : (replyWrote d s).rxLine = s.rxLine := rfl
@[simp] theorem replyWrote_hostPort (d : List Byte) (s : State) : (replyWrote d s).hostPort = s.hostPort := rfl
@[simp] theorem replyWrote_hostSel (d : List Byte) (s : State) : (replyWrote d s).hostSel = s.hostSel := rfl
@[simp] theorem replyWrote_agenda (d : List Byte) (s : State) : (replyWrote d s).agenda = s.agenda := rfl
@[simp] theorem replyWrote_freeCtr (d : List Byte) (s : State) : (replyWrote d s).freeCtr = s.freeCtr := rfl

/-! ## replyRead -/

@[simp] theorem replyRead_cfgMtu (d : List Byte) (s : State) : (replyRead d s).cfgMtu = s.cfgMtu := rfl
@[simp] theorem replyRead_cfgRetry (d : List Byte) (s : State) : (replyRead d s).cfgRetry = s.cfgRetry := rfl
@[simp] theorem replyRead_cfgStart (d : List Byte) (s : State) : (replyRead d s).cfgStart = s.cfgStart := rfl
@[simp] theorem replyRead_ctl (d : List Byte) (s : State) : (replyRead d s).ctl = s.ctl := rfl
@[simp] theorem replyRead_ret (d : List Byte) (s : State) : (replyRead d s).ret = s.ret := rfl
@[simp] theorem replyRead_ackId (d : List Byte) (s : State) : (replyRead d s).ackId = s.ackId := rfl
@[simp] theorem replyRead_ob (d : List Byte) (s : State) : (replyRead d s).ob = s.ob := rfl
@[simp] theorem replyRead_ib (d : List Byte) (s : State) : (replyRead d s).ib = s.ib := rfl
@[simp] theorem replyRead_pendV (d : List Byte) (s : State) : (replyRead d s).pendV = s.pendV := rfl
@[simp] theorem replyRead_pendId (d : List Byte) (s : State) : (replyRead d s).pendId = s.pendId := rfl
@[simp] theorem replyRead_pendSize (d : List Byte) (s : State) : (replyRead d s).pendSize = s.pendSize := rfl
@[simp] theorem replyRead_pendData (d : List Byte) (s : State) : (replyRead d s).pendData = s.pendData := rfl
@[simp] theorem replyRead_lastV (d : List Byte) (s : State) : (replyRead d s).lastV = s.lastV := rfl
@[simp] theorem replyRead_lastId (d : List Byte) (s : State) : (replyRead d s).lastId = s.lastId := rfl
@[simp] theorem replyRead_seq (d : List Byte) (s : State) : (replyRead d s).seq = s.seq := rfl
@[simp] theorem replyRead_tickP (d : List Byte) (s : State) : (replyRead d s).tickP = s.tickP := rfl
@[simp] theorem replyRead_tmrPhase (d : List Byte) (s : State) : (replyRead d s).tmrPhase = s.tmrPhase := rfl
@[simp] theorem replyRead_rxPhase (d : List Byte) (s : State) : (replyRead d s).rxPhase = s.rxPhase := rfl
@[simp] theorem replyRead_rxBuf (d : List Byte) (s : State) : (replyRead d s).rxBuf = s.rxBuf := rfl
@[simp] theorem replyRead_rxHold (d : List Byte) (s : State) : (replyRead d s).rxHold = s.rxHold := rfl
@[simp] theorem replyRead_txBusy (d : List Byte) (s : State) : (replyRead d s).txBusy = s.txBusy := rfl
@[simp] theorem replyRead_txQ (d : List Byte) (s : State) : (replyRead d s).txQ = s.txQ := rfl
@[simp] theorem replyRead_obsTx (d : List Byte) (s : State) : (replyRead d s).obsTx = s.obsTx := rfl
@[simp] theorem replyRead_obsErr (d : List Byte) (s : State) : (replyRead d s).obsErr = s.obsErr := rfl
@[simp] theorem replyRead_replies (d : List Byte) (s : State) : (replyRead d s).replies = s.replies ++ [.read s.hostSel d] := rfl
@[simp] theorem replyRead_history (d : List Byte) (s : State) : (replyRead d s).history = s.history := rfl
@[simp] theorem replyRead_rxLine (d : List Byte) (s : State) : (replyRead d s).rxLine = s.rxLine := rfl
@[simp] theorem replyRead_hostPort (d : List Byte) (s : State) : (replyRead d s).hostPort = s.hostPort := rfl
@[simp] theorem replyRead_hostSel (d : List Byte) (s : State) : (replyRead d s).hostSel = s.hostSel := rfl
@[simp] theorem replyRead_agenda (d : List Byte) (s : State) : (replyRead d s).agenda = s.agenda := rfl
@[simp] theorem replyRead_freeCtr (d : List Byte) (s : State) : (replyRead d s).freeCtr = s.freeCtr := rfl

/-! ## continueTo -/

@[simp] theorem continueTo_cfgMtu (r : Bool) (s : State) : (continueTo r s).cfgMtu = s.cfgMtu := rfl
@[simp] theorem continueTo_cfgRetry (r : Bool) (s : State) : (continueTo r s).cfgRetry = s.cfgRetry := rfl
@[simp] theorem continueTo_cfgStart (r : Bool) (s : State) : (continueTo r s).cfgStart = s.cfgStart := rfl
@[simp] theorem continueTo_ctl (r : Bool) (s : State) : (continueTo r s).ctl = if r then .resendTry else .loop := rfl
@[simp] theorem continueTo_ret (r : Bool) (s : State) : (continueTo r s).ret = s.ret := rfl
@[simp] theorem continueTo_ackId (r : Bool) (s : State) : (continueTo r s).ackId = s.ackId := rfl
@[simp] theorem continueTo_ob (r : Bool) (s : State) : (continueTo r s).ob = s.ob := rfl
@[simp] theorem continueTo_ib (r : Bool) (s : State) : (continueTo r s).ib = s.ib := rfl
@[simp] theorem continueTo_pendV (r : Bool) (s : State) : (continueTo r s).pendV = s.pendV := rfl
@[simp] theorem continueTo_pendId (r : Bool) (s : State) : (continueTo r s).pendId = s.pendId := rfl
@[simp] theorem continueTo_pendSize (r : Bool) (s : State) : (continueTo r s).pendSize = s.pendSize := rfl
@[simp] theorem continueTo_pendData (r : Bool) (s : State) : (continueTo r s).pendData = s.pendData := rfl
@[simp] theorem continueTo_lastV (r : Bool) (s : State) : (continueTo r s).lastV = s.lastV := rfl
@[simp] theorem continueTo_lastId (r : Bool) (s : State) : (continueTo r s).lastId = s.lastId := rfl
@[simp] theorem continueTo_seq (r : Bool) (s : State) : (continueTo r s).seq = s.seq := rfl
@[simp] theorem continueTo_tickP (r : Bool) (s : State) : (continueTo r s).tickP = s.tickP := rfl
@[simp] theorem continueTo_tmrPhase (r : Bool) (s : State) : (continueTo r s).tmrPhase = s.tmrPhase := rfl
@[simp] theorem continueTo_rxPhase (r : Bool) (s : State) : (continueTo r s).rxPhase = s.rxPhase := rfl
@[simp] theorem continueTo_rxBuf (r : Bool) (s : State) : (continueTo r s).rxBuf = s.rxBuf := rfl
@[simp] theorem continueTo_rxHold (r : Bool) (s : State) : (continueTo r s).rxHold = s.rxHold := rfl
@[simp] theorem continueTo_txBusy (r : Bool) (s : State) : (continueTo r s).txBusy = s.txBusy := rfl
@[simp] theorem continueTo_txQ (r : Bool) (s : State) : (continueTo r s).txQ = s.txQ := rfl
@[simp] theorem continueTo_obsTx (r : Bool) (s : State) : (continueTo r s).obsTx = s.obsTx := rfl
@[simp] theorem continueTo_obsErr (r : Bool) (s : State) : (continueTo r s).obsErr = s.obsErr := rfl
@[simp] theorem continueTo_replies (r : Bool) (s : State) : (continueTo r s).replies = s.replies := rfl
@[simp] theorem continueTo_history (r : Bool) (s : State) : (continueTo r s).history = s.history := rfl
@[simp] theorem continueTo_rxLine (r : Bool) (s : State) : (continueTo r s).rxLine = s.rxLine := rfl
@[simp] theorem continueTo_hostPort (r : Bool) (s : State) : (continueTo r s).hostPort = s.hostPort := rfl
@[simp] theorem continueTo_hostSel (r : Bool) (s : State) : (continueTo r s).hostSel = s.hostSel := rfl
@[simp] theorem continueTo_agenda (r : Bool) (s : State) : (continueTo r s).agenda = s.agenda := rfl
@[simp] theorem continueTo_freeCtr (r : Bool) (s : State) : (continueTo r s).freeCtr = s.freeCtr := rfl

/-! ## buildFrame -/

@[simp] theorem buildFrame_cfgMtu (r : Bool) (s : State) : (buildFrame r s).cfgMtu = s.cfgMtu := rfl
@[simp] theorem buildFrame_cfgRetry (r : Bool) (s : State) : (buildFrame r s).cfgRetry = s.cfgRetry := rfl
@[simp] theorem buildFrame_cfgStart (r : Bool) (s : State) : (buildFrame r s).cfgStart = s.cfgStart := rfl
@[simp] theorem buildFrame_ctl (r : Bool) (s : State) : (buildFrame r s).ctl = .advWait := rfl
@[simp] theorem buildFrame_ret (r : Bool) (s : State) : (buildFrame r s).ret = r := rfl
@[simp] theorem buildFrame_ackId (r : Bool) (s : State) : (buildFrame r s).ackId = s.ackId := rfl
@[simp] theorem buildFrame_ob (r : Bool) (s : State) : (buildFrame r s).ob = s.ob.drop (advanceCount s) := rfl
@[simp] theorem buildFrame_ib (r : Bool) (s : State) : (buildFrame r s).ib = s.ib := rfl
@[simp] theorem buildFrame_pendV (r : Bool) (s : State) : (buildFrame r s).pendV = true := rfl
@[simp] theorem buildFrame_pendId (r : Bool) (s : State) : (buildFrame r s).pendId = s.seq := rfl
@[simp] theorem buildFrame_pendSize (r : Bool) (s : State) : (buildFrame r s).pendSize = BitVec.ofNat 8 (advanceCount s) := rfl
@[simp] theorem buildFrame_pendData (r : Bool) (s : State) : (buildFrame r s).pendData = s.ob.take (advanceCount s) := rfl
@[simp] theorem buildFrame_lastV (r : Bool) (s : State) : (buildFrame r s).lastV = s.lastV := rfl
@[simp] theorem buildFrame_lastId (r : Bool) (s : State) : (buildFrame r s).lastId = s.lastId := rfl
@[simp] theorem buildFrame_seq (r : Bool) (s : State) : (buildFrame r s).seq = seqSucc s.seq := rfl
@[simp] theorem buildFrame_tickP (r : Bool) (s : State) : (buildFrame r s).tickP = s.tickP := rfl
@[simp] theorem buildFrame_tmrPhase (r : Bool) (s : State) : (buildFrame r s).tmrPhase = s.tmrPhase := rfl
@[simp] theorem buildFrame_rxPhase (r : Bool) (s : State) : (buildFrame r s).rxPhase = s.rxPhase := rfl
@[simp] theorem buildFrame_rxBuf (r : Bool) (s : State) : (buildFrame r s).rxBuf = s.rxBuf := rfl
@[simp] theorem buildFrame_rxHold (r : Bool) (s : State) : (buildFrame r s).rxHold = s.rxHold := rfl
@[simp] theorem buildFrame_txBusy (r : Bool) (s : State) : (buildFrame r s).txBusy = s.txBusy := rfl
@[simp] theorem buildFrame_txQ (r : Bool) (s : State) : (buildFrame r s).txQ = s.txQ := rfl
@[simp] theorem buildFrame_obsTx (r : Bool) (s : State) : (buildFrame r s).obsTx = s.obsTx := rfl
@[simp] theorem buildFrame_obsErr (r : Bool) (s : State) : (buildFrame r s).obsErr = s.obsErr := rfl
@[simp] theorem buildFrame_replies (r : Bool) (s : State) : (buildFrame r s).replies = s.replies := rfl
@[simp] theorem buildFrame_history (r : Bool) (s : State) : (buildFrame r s).history = s.history := rfl
@[simp] theorem buildFrame_rxLine (r : Bool) (s : State) : (buildFrame r s).rxLine = s.rxLine := rfl
@[simp] theorem buildFrame_hostPort (r : Bool) (s : State) : (buildFrame r s).hostPort = s.hostPort := rfl
@[simp] theorem buildFrame_hostSel (r : Bool) (s : State) : (buildFrame r s).hostSel = s.hostSel := rfl
@[simp] theorem buildFrame_agenda (r : Bool) (s : State) : (buildFrame r s).agenda = s.agenda := rfl
@[simp] theorem buildFrame_freeCtr (r : Bool) (s : State) : (buildFrame r s).freeCtr = s.freeCtr := rfl

/-! ## holdFrame -/

@[simp] theorem holdFrame_cfgMtu (f : Frame) (s : State) : (holdFrame f s).cfgMtu = s.cfgMtu := rfl
@[simp] theorem holdFrame_cfgRetry (f : Frame) (s : State) : (holdFrame f s).cfgRetry = s.cfgRetry := rfl
@[simp] theorem holdFrame_cfgStart (f : Frame) (s : State) : (holdFrame f s).cfgStart = s.cfgStart := rfl
@[simp] theorem holdFrame_ctl (f : Frame) (s : State) : (holdFrame f s).ctl = s.ctl := rfl
@[simp] theorem holdFrame_ret (f : Frame) (s : State) : (holdFrame f s).ret = s.ret := rfl
@[simp] theorem holdFrame_ackId (f : Frame) (s : State) : (holdFrame f s).ackId = s.ackId := rfl
@[simp] theorem holdFrame_ob (f : Frame) (s : State) : (holdFrame f s).ob = s.ob := rfl
@[simp] theorem holdFrame_ib (f : Frame) (s : State) : (holdFrame f s).ib = s.ib := rfl
@[simp] theorem holdFrame_pendV (f : Frame) (s : State) : (holdFrame f s).pendV = s.pendV := rfl
@[simp] theorem holdFrame_pendId (f : Frame) (s : State) : (holdFrame f s).pendId = s.pendId := rfl
@[simp] theorem holdFrame_pendSize (f : Frame) (s : State) : (holdFrame f s).pendSize = s.pendSize := rfl
@[simp] theorem holdFrame_pendData (f : Frame) (s : State) : (holdFrame f s).pendData = s.pendData := rfl
@[simp] theorem holdFrame_lastV (f : Frame) (s : State) : (holdFrame f s).lastV = s.lastV := rfl
@[simp] theorem holdFrame_lastId (f : Frame) (s : State) : (holdFrame f s).lastId = s.lastId := rfl
@[simp] theorem holdFrame_seq (f : Frame) (s : State) : (holdFrame f s).seq = s.seq := rfl
@[simp] theorem holdFrame_tickP (f : Frame) (s : State) : (holdFrame f s).tickP = s.tickP := rfl
@[simp] theorem holdFrame_tmrPhase (f : Frame) (s : State) : (holdFrame f s).tmrPhase = s.tmrPhase := rfl
@[simp] theorem holdFrame_rxPhase (f : Frame) (s : State) : (holdFrame f s).rxPhase = .hold := rfl
@[simp] theorem holdFrame_rxBuf (f : Frame) (s : State) : (holdFrame f s).rxBuf = [] := rfl
@[simp] theorem holdFrame_rxHold (f : Frame) (s : State) : (holdFrame f s).rxHold = f := rfl
@[simp] theorem holdFrame_txBusy (f : Frame) (s : State) : (holdFrame f s).txBusy = s.txBusy := rfl
@[simp] theorem holdFrame_txQ (f : Frame) (s : State) : (holdFrame f s).txQ = s.txQ := rfl
@[simp] theorem holdFrame_obsTx (f : Frame) (s : State) : (holdFrame f s).obsTx = s.obsTx := rfl
@[simp] theorem holdFrame_obsErr (f : Frame) (s : State) : (holdFrame f s).obsErr = s.obsErr := rfl
@[simp] theorem holdFrame_replies (f : Frame) (s : State) : (holdFrame f s).replies = s.replies := rfl
@[simp] theorem holdFrame_history (f : Frame) (s : State) : (holdFrame f s).history = s.history := rfl
@[simp] theorem holdFrame_rxLine (f : Frame) (s : State) : (holdFrame f s).rxLine = s.rxLine := rfl
@[simp] theorem holdFrame_hostPort (f : Frame) (s : State) : (holdFrame f s).hostPort = s.hostPort := rfl
@[simp] theorem holdFrame_hostSel (f : Frame) (s : State) : (holdFrame f s).hostSel = s.hostSel := rfl
@[simp] theorem holdFrame_agenda (f : Frame) (s : State) : (holdFrame f s).agenda = s.agenda := rfl
@[simp] theorem holdFrame_freeCtr (f : Frame) (s : State) : (holdFrame f s).freeCtr = s.freeCtr := rfl

/-! ## rejectStart -/

@[simp] theorem rejectStart_cfgMtu (s : State) : (rejectStart s).cfgMtu = s.cfgMtu := rfl
@[simp] theorem rejectStart_cfgRetry (s : State) : (rejectStart s).cfgRetry = s.cfgRetry := rfl
@[simp] theorem rejectStart_cfgStart (s : State) : (rejectStart s).cfgStart = s.cfgStart := rfl
@[simp] theorem rejectStart_ctl (s : State) : (rejectStart s).ctl = s.ctl := rfl
@[simp] theorem rejectStart_ret (s : State) : (rejectStart s).ret = s.ret := rfl
@[simp] theorem rejectStart_ackId (s : State) : (rejectStart s).ackId = s.ackId := rfl
@[simp] theorem rejectStart_ob (s : State) : (rejectStart s).ob = s.ob := rfl
@[simp] theorem rejectStart_ib (s : State) : (rejectStart s).ib = s.ib := rfl
@[simp] theorem rejectStart_pendV (s : State) : (rejectStart s).pendV = s.pendV := rfl
@[simp] theorem rejectStart_pendId (s : State) : (rejectStart s).pendId = s.pendId := rfl
@[simp] theorem rejectStart_pendSize (s : State) : (rejectStart s).pendSize = s.pendSize := rfl
@[simp] theorem rejectStart_pendData (s : State) : (rejectStart s).pendData = s.pendData := rfl
@[simp] theorem rejectStart_lastV (s : State) : (rejectStart s).lastV = s.lastV := rfl
@[simp] theorem rejectStart_lastId (s : State) : (rejectStart s).lastId = s.lastId := rfl
@[simp] theorem rejectStart_seq (s : State) : (rejectStart s).seq = s.seq := rfl
@[simp] theorem rejectStart_tickP (s : State) : (rejectStart s).tickP = s.tickP := rfl
@[simp] theorem rejectStart_tmrPhase (s : State) : (rejectStart s).tmrPhase = s.tmrPhase := rfl
@[simp] theorem rejectStart_rxPhase (s : State) : (rejectStart s).rxPhase = .hdr := rfl
@[simp] theorem rejectStart_rxBuf (s : State) : (rejectStart s).rxBuf = [] := rfl
@[simp] theorem rejectStart_rxHold (s : State) : (rejectStart s).rxHold = s.rxHold := rfl
@[simp] theorem rejectStart_txBusy (s : State) : (rejectStart s).txBusy = s.txBusy := rfl
@[simp] theorem rejectStart_txQ (s : State) : (rejectStart s).txQ = s.txQ := rfl
@[simp] theorem rejectStart_obsTx (s : State) : (rejectStart s).obsTx = s.obsTx := rfl
@[simp] theorem rejectStart_obsErr (s : State) : (rejectStart s).obsErr = s.obsErr ++ [.invalidStart] := rfl
@[simp] theorem rejectStart_replies (s : State) : (rejectStart s).replies = s.replies := rfl
@[simp] theorem rejectStart_history (s : State) : (rejectStart s).history = s.history := rfl
@[simp] theorem rejectStart_rxLine (s : State) : (rejectStart s).rxLine = s.rxLine := rfl
@[simp] theorem rejectStart_hostPort (s : State) : (rejectStart s).hostPort = s.hostPort := rfl
@[simp] theorem rejectStart_hostSel (s : State) : (rejectStart s).hostSel = s.hostSel := rfl
@[simp] theorem rejectStart_agenda (s : State) : (rejectStart s).agenda = s.agenda := rfl
@[simp] theorem rejectStart_freeCtr (s : State) : (rejectStart s).freeCtr = s.freeCtr := rfl

/-! ## rejectTrailer -/

@[simp] theorem rejectTrailer_cfgMtu (s : State) : (rejectTrailer s).cfgMtu = s.cfgMtu := rfl
@[simp] theorem rejectTrailer_cfgRetry (s : State) : (rejectTrailer s).cfgRetry = s.cfgRetry := rfl
@[simp] theorem rejectTrailer_cfgStart (s : State) : (rejectTrailer s).cfgStart = s.cfgStart := rfl
@[simp] theorem rejectTrailer_ctl (s : State) : (rejectTrailer s).ctl = s.ctl := rfl
@[simp] theorem rejectTrailer_ret (s : State) : (rejectTrailer s).ret = s.ret := rfl
@[simp] theorem rejectTrailer_ackId (s : State) : (rejectTrailer s).ackId = s.ackId := rfl
@[simp] theorem rejectTrailer_ob (s : State) : (rejectTrailer s).ob = s.ob := rfl
@[simp] theorem rejectTrailer_ib (s : State) : (rejectTrailer s).ib = s.ib := rfl
@[simp] theorem rejectTrailer_pendV (s : State) : (rejectTrailer s).pendV = s.pendV := rfl
@[simp] theorem rejectTrailer_pendId (s : State) : (rejectTrailer s).pendId = s.pendId := rfl
@[simp] theorem rejectTrailer_pendSize (s : State) : (rejectTrailer s).pendSize = s.pendSize := rfl
@[simp] theorem rejectTrailer_pendData (s : State) : (rejectTrailer s).pendData = s.pendData := rfl
@[simp] theorem rejectTrailer_lastV (s : State) : (rejectTrailer s).lastV = s.lastV := rfl
@[simp] theorem rejectTrailer_lastId (s : State) : (rejectTrailer s).lastId = s.lastId := rfl
@[simp] theorem rejectTrailer_seq (s : State) : (rejectTrailer s).seq = s.seq := rfl
@[simp] theorem rejectTrailer_tickP (s : State) : (rejectTrailer s).tickP = s.tickP := rfl
@[simp] theorem rejectTrailer_tmrPhase (s : State) : (rejectTrailer s).tmrPhase = s.tmrPhase := rfl
@[simp] theorem rejectTrailer_rxPhase (s : State) : (rejectTrailer s).rxPhase = .hdr := rfl
@[simp] theorem rejectTrailer_rxBuf (s : State) : (rejectTrailer s).rxBuf = [] := rfl
@[simp] theorem rejectTrailer_rxHold (s : State) : (rejectTrailer s).rxHold = s.rxHold := rfl
@[simp] theorem rejectTrailer_txBusy (s : State) : (rejectTrailer s).txBusy = s.txBusy := rfl
@[simp] theorem rejectTrailer_txQ (s : State) : (rejectTrailer s).txQ = s.txQ := rfl
@[simp] theorem rejectTrailer_obsTx (s : State) : (rejectTrailer s).obsTx = s.obsTx := rfl
@[simp] theorem rejectTrailer_obsErr (s : State) : (rejectTrailer s).obsErr = s.obsErr ++ [.checksumMismatch] := rfl
@[simp] theorem rejectTrailer_replies (s : State) : (rejectTrailer s).replies = s.replies := rfl
@[simp] theorem rejectTrailer_history (s : State) : (rejectTrailer s).history = s.history := rfl
@[simp] theorem rejectTrailer_rxLine (s : State) : (rejectTrailer s).rxLine = s.rxLine := rfl
@[simp] theorem rejectTrailer_hostPort (s : State) : (rejectTrailer s).hostPort = s.hostPort := rfl
@[simp] theorem rejectTrailer_hostSel (s : State) : (rejectTrailer s).hostSel = s.hostSel := rfl
@[simp] theorem rejectTrailer_agenda (s : State) : (rejectTrailer s).agenda = s.agenda := rfl
@[simp] theorem rejectTrailer_freeCtr (s : State) : (rejectTrailer s).freeCtr = s.freeCtr := rfl

/-! ## abortAttempt -/

@[simp] theorem abortAttempt_cfgMtu (s : State) : (abortAttempt s).cfgMtu = s.cfgMtu := rfl
@[simp] theorem abortAttempt_cfgRetry (s : State) : (abortAttempt s).cfgRetry = s.cfgRetry := rfl
@[simp] theorem abortAttempt_cfgStart (s : State) : (abortAttempt s).cfgStart = s.cfgStart := rfl
@[simp] theorem abortAttempt_ctl (s : State) : (abortAttempt s).ctl = s.ctl := rfl
@[simp] theorem abortAttempt_ret (s : State) : (abortAttempt s).ret = s.ret := rfl
@[simp] theorem abortAttempt_ackId (s : State) : (abortAttempt s).ackId = s.ackId := rfl
@[simp] theorem abortAttempt_ob (s : State) : (abortAttempt s).ob = s.ob := rfl
@[simp] theorem abortAttempt_ib (s : State) : (abortAttempt s).ib = s.ib := rfl
@[simp] theorem abortAttempt_pendV (s : State) : (abortAttempt s).pendV = s.pendV := rfl
@[simp] theorem abortAttempt_pendId (s : State) : (abortAttempt s).pendId = s.pendId := rfl
@[simp] theorem abortAttempt_pendSize (s : State) : (abortAttempt s).pendSize = s.pendSize := rfl
@[simp] theorem abortAttempt_pendData (s : State) : (abortAttempt s).pendData = s.pendData := rfl
@[simp] theorem abortAttempt_lastV (s : State) : (abortAttempt s).lastV = s.lastV := rfl
@[simp] theorem abortAttempt_lastId (s : State) : (abortAttempt s).lastId = s.lastId := rfl
@[simp] theorem abortAttempt_seq (s : State) : (abortAttempt s).seq = s.seq := rfl
@[simp] theorem abortAttempt_tickP (s : State) : (abortAttempt s).tickP = s.tickP := rfl
@[simp] theorem abortAttempt_tmrPhase (s : State) : (abortAttempt s).tmrPhase = s.tmrPhase := rfl
@[simp] theorem abortAttempt_rxPhase (s : State) : (abortAttempt s).rxPhase = .hdr := rfl
@[simp] theorem abortAttempt_rxBuf (s : State) : (abortAttempt s).rxBuf = [] := rfl
@[simp] theorem abortAttempt_rxHold (s : State) : (abortAttempt s).rxHold = s.rxHold := rfl
@[simp] theorem abortAttempt_txBusy (s : State) : (abortAttempt s).txBusy = s.txBusy := rfl
@[simp] theorem abortAttempt_txQ (s : State) : (abortAttempt s).txQ = s.txQ := rfl
@[simp] theorem abortAttempt_obsTx (s : State) : (abortAttempt s).obsTx = s.obsTx := rfl
@[simp] theorem abortAttempt_obsErr (s : State) : (abortAttempt s).obsErr = s.obsErr ++ [.rxIoError] := rfl
@[simp] theorem abortAttempt_replies (s : State) : (abortAttempt s).replies = s.replies := rfl
@[simp] theorem abortAttempt_history (s : State) : (abortAttempt s).history = s.history := rfl
@[simp] theorem abortAttempt_rxLine (s : State) : (abortAttempt s).rxLine = s.rxLine := rfl
@[simp] theorem abortAttempt_hostPort (s : State) : (abortAttempt s).hostPort = s.hostPort := rfl
@[simp] theorem abortAttempt_hostSel (s : State) : (abortAttempt s).hostSel = s.hostSel := rfl
@[simp] theorem abortAttempt_agenda (s : State) : (abortAttempt s).agenda = s.agenda := rfl
@[simp] theorem abortAttempt_freeCtr (s : State) : (abortAttempt s).freeCtr = s.freeCtr := rfl

/-! ## acceptNew -/

@[simp] theorem acceptNew_cfgMtu (i : Byte) (d : List Byte) (s : State) : (acceptNew i d s).cfgMtu = s.cfgMtu := rfl
@[simp] theorem acceptNew_cfgRetry (i : Byte) (d : List Byte) (s : State) : (acceptNew i d s).cfgRetry = s.cfgRetry := rfl
@[simp] theorem acceptNew_cfgStart (i : Byte) (d : List Byte) (s : State) : (acceptNew i d s).cfgStart = s.cfgStart := rfl
@[simp] theorem acceptNew_ctl (i : Byte) (d : List Byte) (s : State) : (acceptNew i d s).ctl = s.ctl := rfl
@[simp] theorem acceptNew_ret (i : Byte) (d : List Byte) (s : State) : (acceptNew i d s).ret = s.ret := rfl
@[simp] theorem acceptNew_ackId (i : Byte) (d : List Byte) (s : State) : (acceptNew i d s).ackId = s.ackId := rfl
@[simp] theorem acceptNew_ob (i : Byte) (d : List Byte) (s : State) : (acceptNew i d s).ob = s.ob := rfl
@[simp] theorem acceptNew_ib (i : Byte) (d : List Byte) (s : State) : (acceptNew i d s).ib = s.ib ++ d := rfl
@[simp] theorem acceptNew_pendV (i : Byte) (d : List Byte) (s : State) : (acceptNew i d s).pendV = s.pendV := rfl
@[simp] theorem acceptNew_pendId (i : Byte) (d : List Byte) (s : State) : (acceptNew i d s).pendId = s.pendId := rfl
@[simp] theorem acceptNew_pendSize (i : Byte) (d : List Byte) (s : State) : (acceptNew i d s).pendSize = s.pendSize := rfl
@[simp] theorem acceptNew_pendData (i : Byte) (d : List Byte) (s : State) : (acceptNew i d s).pendData = s.pendData := rfl
@[simp] theorem acceptNew_lastV (i : Byte) (d : List Byte) (s : State) : (acceptNew i d s).lastV = true := rfl
@[simp] theorem acceptNew_lastId (i : Byte) (d : List Byte) (s : State) : (acceptNew i d s).lastId = i := rfl
@[simp] theorem acceptNew_seq (i : Byte) (d : List Byte) (s : State) : (acceptNew i d s).seq = s.seq := rfl
@[simp] theorem acceptNew_tickP (i : Byte) (d : List Byte) (s : State) : (acceptNew i d s).tickP = s.tickP := rfl
@[simp] theorem acceptNew_tmrPhase (i : Byte) (d : List Byte) (s : State) : (acceptNew i d s).tmrPhase = s.tmrPhase := rfl
@[simp] theorem acceptNew_rxPhase (i : Byte) (d : List Byte) (s : State) : (acceptNew i d s).rxPhase = s.rxPhase := rfl
@[simp] theorem acceptNew_rxBuf (i : Byte) (d : List Byte) (s : State) : (acceptNew i d s).rxBuf = s.rxBuf := rfl
@[simp] theorem acceptNew_rxHold (i : Byte) (d : List Byte) (s : State) : (acceptNew i d s).rxHold = s.rxHold := rfl
@[simp] theorem acceptNew_txBusy (i : Byte) (d : List Byte) (s : State) : (acceptNew i d s).txBusy = s.txBusy := rfl
@[simp] theorem acceptNew_txQ (i : Byte) (d : List Byte) (s : State) : (acceptNew i d s).txQ = s.txQ := rfl
@[simp] theorem acceptNew_obsTx (i : Byte) (d : List Byte) (s : State) : (acceptNew i d s).obsTx = s.obsTx := rfl
@[simp] theorem acceptNew_obsErr (i : Byte) (d : List Byte) (s : State) : (acceptNew i d s).obsErr = s.obsErr := rfl
@[simp] theorem acceptNew_replies (i : Byte) (d : List Byte) (s : State) : (acceptNew i d s).replies = s.replies := rfl
@[simp] theorem acceptNew_history (i : Byte) (d : List Byte) (s : State) : (acceptNew i d s).history = s.history := rfl
@[simp] theorem acceptNew_rxLine (i : Byte) (d : List Byte) (s : State) : (acceptNew i d s).rxLine = s.rxLine := rfl
@[simp] theorem acceptNew_hostPort (i : Byte) (d : List Byte) (s : State) : (acceptNew i d s).hostPort = s.hostPort := rfl
@[simp] theorem acceptNew_hostSel (i : Byte) (d : List Byte) (s : State) : (acceptNew i d s).hostSel = s.hostSel := rfl
@[simp] theorem acceptNew_agenda (i : Byte) (d : List Byte) (s : State) : (acceptNew i d s).agenda = s.agenda := rfl
@[simp] theorem acceptNew_freeCtr (i : Byte) (d : List Byte) (s : State) : (acceptNew i d s).freeCtr = s.freeCtr := rfl

/-! ## grantHost -/

@[simp] theorem grantHost_cfgMtu (k : Nat) (q : HostReq) (r : List Byte) (s : State) : (grantHost k q r s).cfgMtu = s.cfgMtu := rfl
@[simp] theorem grantHost_cfgRetry (k : Nat) (q : HostReq) (r : List Byte) (s : State) : (grantHost k q r s).cfgRetry = s.cfgRetry := rfl
@[simp] theorem grantHost_cfgStart (k : Nat) (q : HostReq) (r : List Byte) (s : State) : (grantHost k q r s).cfgStart = s.cfgStart := rfl
@[simp] theorem grantHost_ctl (k : Nat) (q : HostReq) (r : List Byte) (s : State) : (grantHost k q r s).ctl = s.ctl := rfl
@[simp] theorem grantHost_ret (k : Nat) (q : HostReq) (r : List Byte) (s : State) : (grantHost k q r s).ret = s.ret := rfl
@[simp] theorem grantHost_ackId (k : Nat) (q : HostReq) (r : List Byte) (s : State) : (grantHost k q r s).ackId = s.ackId := rfl
@[simp] theorem grantHost_ob (k : Nat) (q : HostReq) (r : List Byte) (s : State) : (grantHost k q r s).ob = s.ob := rfl
@[simp] theorem grantHost_ib (k : Nat) (q : HostReq) (r : List Byte) (s : State) : (grantHost k q r s).ib = s.ib := rfl
@[simp] theorem grantHost_pendV (k : Nat) (q : HostReq) (r : List Byte) (s : State) : (grantHost k q r s).pendV = s.pendV := rfl
@[simp] theorem grantHost_pendId (k : Nat) (q : HostReq) (r : List Byte) (s : State) : (grantHost k q r s).pendId = s.pendId := rfl
@[simp] theorem grantHost_pendSize (k : Nat) (q : HostReq) (r : List Byte) (s : State) : (grantHost k q r s).pendSize = s.pendSize := rfl
@[simp] theorem grantHost_pendData (k : Nat) (q : HostReq) (r : List Byte) (s : State) : (grantHost k q r s).pendData = s.pendData := rfl
@[simp] theorem grantHost_lastV (k : Nat) (q : HostReq) (r : List Byte) (s : State) : (grantHost k q r s).lastV = s.lastV := rfl
@[simp] theorem grantHost_lastId (k : Nat) (q : HostReq) (r : List Byte) (s : State) : (grantHost k q r s).lastId = s.lastId := rfl
@[simp] theorem grantHost_seq (k : Nat) (q : HostReq) (r : List Byte) (s : State) : (grantHost k q r s).seq = s.seq := rfl
@[simp] theorem grantHost_tickP (k : Nat) (q : HostReq) (r : List Byte) (s : State) : (grantHost k q r s).tickP = s.tickP := rfl
@[simp] theorem grantHost_tmrPhase (k : Nat) (q : HostReq) (r : List Byte) (s : State) : (grantHost k q r s).tmrPhase = s.tmrPhase := rfl
@[simp] theorem grantHost_rxPhase (k : Nat) (q : HostReq) (r : List Byte) (s : State) : (grantHost k q r s).rxPhase = s.rxPhase := rfl
@[simp] theorem grantHost_rxBuf (k : Nat) (q : HostReq) (r : List Byte) (s : State) : (grantHost k q r s).rxBuf = s.rxBuf := rfl
@[simp] theorem grantHost_rxHold (k : Nat) (q : HostReq) (r : List Byte) (s : State) : (grantHost k q r s).rxHold = s.rxHold := rfl
@[simp] theorem grantHost_txBusy (k : Nat) (q : HostReq) (r : List Byte) (s : State) : (grantHost k q r s).txBusy = s.txBusy := rfl
@[simp] theorem grantHost_txQ (k : Nat) (q : HostReq) (r : List Byte) (s : State) : (grantHost k q r s).txQ = s.txQ := rfl
@[simp] theorem grantHost_obsTx (k : Nat) (q : HostReq) (r : List Byte) (s : State) : (grantHost k q r s).obsTx = s.obsTx := rfl
@[simp] theorem grantHost_obsErr (k : Nat) (q : HostReq) (r : List Byte) (s : State) : (grantHost k q r s).obsErr = s.obsErr := rfl
@[simp] theorem grantHost_replies (k : Nat) (q : HostReq) (r : List Byte) (s : State) : (grantHost k q r s).replies = s.replies := rfl
@[simp] theorem grantHost_history (k : Nat) (q : HostReq) (r : List Byte) (s : State) : (grantHost k q r s).history = s.history := rfl
@[simp] theorem grantHost_rxLine (k : Nat) (q : HostReq) (r : List Byte) (s : State) : (grantHost k q r s).rxLine = s.rxLine := rfl
@[simp] theorem grantHost_hostPort (k : Nat) (q : HostReq) (r : List Byte) (s : State) : (grantHost k q r s).hostPort = if r = [] then s.hostPort.eraseIdx k else s.hostPort.set k { q with cmd := r } := rfl
@[simp] theorem grantHost_hostSel (k : Nat) (q : HostReq) (r : List Byte) (s : State) : (grantHost k q r s).hostSel = q.agent := rfl
@[simp] theorem grantHost_agenda (k : Nat) (q : HostReq) (r : List Byte) (s : State) : (grantHost k q r s).agenda = s.agenda := rfl
@[simp] theorem grantHost_freeCtr (k : Nat) (q : HostReq) (r : List Byte) (s : State) : (grantHost k q r s).freeCtr = s.freeCtr := rfl

/-! ## acceptByte: only RXD's state and the error records change -/

/-- What RX_BYTE can write (43_pumps.md R183). -/
theorem acceptByte_shape (b : Byte) (s : State) : ∃ p u h e,
    acceptByte b s = { s with rxPhase := p, rxBuf := u, rxHold := h, obsErr := e } := by
  unfold acceptByte
  cases hp : s.rxPhase <;> dsimp only
  · split_ifs
    · exact ⟨.hdr, [], s.rxHold, s.obsErr ++ [.invalidStart], rfl⟩
    · exact ⟨.trl, s.rxBuf ++ [b], s.rxHold, s.obsErr, rfl⟩
    · exact ⟨.pay, s.rxBuf ++ [b], s.rxHold, s.obsErr, rfl⟩
    · exact ⟨.hdr, s.rxBuf ++ [b], s.rxHold, s.obsErr, rfl⟩
  · split_ifs
    · exact ⟨.trl, s.rxBuf ++ [b], s.rxHold, s.obsErr, rfl⟩
    · exact ⟨.pay, s.rxBuf ++ [b], s.rxHold, s.obsErr, rfl⟩
  · split_ifs
    · exact ⟨.hold, [], frameAt (s.rxBuf ++ [b]), s.obsErr, rfl⟩
    · exact ⟨.hdr, [], s.rxHold, s.obsErr ++ [.checksumMismatch], rfl⟩
    · exact ⟨.trl, s.rxBuf ++ [b], s.rxHold, s.obsErr, rfl⟩
  · exact ⟨s.rxPhase, s.rxBuf, s.rxHold, s.obsErr, rfl⟩

@[simp] theorem acceptByte_cfgMtu (b : Byte) (s : State) : (acceptByte b s).cfgMtu = s.cfgMtu := by
  obtain ⟨p, u, h, e, q⟩ := acceptByte_shape b s; rw [q]
@[simp] theorem acceptByte_cfgRetry (b : Byte) (s : State) : (acceptByte b s).cfgRetry = s.cfgRetry := by
  obtain ⟨p, u, h, e, q⟩ := acceptByte_shape b s; rw [q]
@[simp] theorem acceptByte_cfgStart (b : Byte) (s : State) : (acceptByte b s).cfgStart = s.cfgStart := by
  obtain ⟨p, u, h, e, q⟩ := acceptByte_shape b s; rw [q]
@[simp] theorem acceptByte_ctl (b : Byte) (s : State) : (acceptByte b s).ctl = s.ctl := by
  obtain ⟨p, u, h, e, q⟩ := acceptByte_shape b s; rw [q]
@[simp] theorem acceptByte_ret (b : Byte) (s : State) : (acceptByte b s).ret = s.ret := by
  obtain ⟨p, u, h, e, q⟩ := acceptByte_shape b s; rw [q]
@[simp] theorem acceptByte_ackId (b : Byte) (s : State) : (acceptByte b s).ackId = s.ackId := by
  obtain ⟨p, u, h, e, q⟩ := acceptByte_shape b s; rw [q]
@[simp] theorem acceptByte_ob (b : Byte) (s : State) : (acceptByte b s).ob = s.ob := by
  obtain ⟨p, u, h, e, q⟩ := acceptByte_shape b s; rw [q]
@[simp] theorem acceptByte_ib (b : Byte) (s : State) : (acceptByte b s).ib = s.ib := by
  obtain ⟨p, u, h, e, q⟩ := acceptByte_shape b s; rw [q]
@[simp] theorem acceptByte_pendV (b : Byte) (s : State) : (acceptByte b s).pendV = s.pendV := by
  obtain ⟨p, u, h, e, q⟩ := acceptByte_shape b s; rw [q]
@[simp] theorem acceptByte_pendId (b : Byte) (s : State) : (acceptByte b s).pendId = s.pendId := by
  obtain ⟨p, u, h, e, q⟩ := acceptByte_shape b s; rw [q]
@[simp] theorem acceptByte_pendSize (b : Byte) (s : State) : (acceptByte b s).pendSize = s.pendSize := by
  obtain ⟨p, u, h, e, q⟩ := acceptByte_shape b s; rw [q]
@[simp] theorem acceptByte_pendData (b : Byte) (s : State) : (acceptByte b s).pendData = s.pendData := by
  obtain ⟨p, u, h, e, q⟩ := acceptByte_shape b s; rw [q]
@[simp] theorem acceptByte_lastV (b : Byte) (s : State) : (acceptByte b s).lastV = s.lastV := by
  obtain ⟨p, u, h, e, q⟩ := acceptByte_shape b s; rw [q]
@[simp] theorem acceptByte_lastId (b : Byte) (s : State) : (acceptByte b s).lastId = s.lastId := by
  obtain ⟨p, u, h, e, q⟩ := acceptByte_shape b s; rw [q]
@[simp] theorem acceptByte_seq (b : Byte) (s : State) : (acceptByte b s).seq = s.seq := by
  obtain ⟨p, u, h, e, q⟩ := acceptByte_shape b s; rw [q]
@[simp] theorem acceptByte_tickP (b : Byte) (s : State) : (acceptByte b s).tickP = s.tickP := by
  obtain ⟨p, u, h, e, q⟩ := acceptByte_shape b s; rw [q]
@[simp] theorem acceptByte_tmrPhase (b : Byte) (s : State) : (acceptByte b s).tmrPhase = s.tmrPhase := by
  obtain ⟨p, u, h, e, q⟩ := acceptByte_shape b s; rw [q]
@[simp] theorem acceptByte_txBusy (b : Byte) (s : State) : (acceptByte b s).txBusy = s.txBusy := by
  obtain ⟨p, u, h, e, q⟩ := acceptByte_shape b s; rw [q]
@[simp] theorem acceptByte_txQ (b : Byte) (s : State) : (acceptByte b s).txQ = s.txQ := by
  obtain ⟨p, u, h, e, q⟩ := acceptByte_shape b s; rw [q]
@[simp] theorem acceptByte_obsTx (b : Byte) (s : State) : (acceptByte b s).obsTx = s.obsTx := by
  obtain ⟨p, u, h, e, q⟩ := acceptByte_shape b s; rw [q]
@[simp] theorem acceptByte_replies (b : Byte) (s : State) : (acceptByte b s).replies = s.replies := by
  obtain ⟨p, u, h, e, q⟩ := acceptByte_shape b s; rw [q]
@[simp] theorem acceptByte_history (b : Byte) (s : State) : (acceptByte b s).history = s.history := by
  obtain ⟨p, u, h, e, q⟩ := acceptByte_shape b s; rw [q]
@[simp] theorem acceptByte_rxLine (b : Byte) (s : State) : (acceptByte b s).rxLine = s.rxLine := by
  obtain ⟨p, u, h, e, q⟩ := acceptByte_shape b s; rw [q]
@[simp] theorem acceptByte_hostPort (b : Byte) (s : State) : (acceptByte b s).hostPort = s.hostPort := by
  obtain ⟨p, u, h, e, q⟩ := acceptByte_shape b s; rw [q]
@[simp] theorem acceptByte_hostSel (b : Byte) (s : State) : (acceptByte b s).hostSel = s.hostSel := by
  obtain ⟨p, u, h, e, q⟩ := acceptByte_shape b s; rw [q]
@[simp] theorem acceptByte_agenda (b : Byte) (s : State) : (acceptByte b s).agenda = s.agenda := by
  obtain ⟨p, u, h, e, q⟩ := acceptByte_shape b s; rw [q]
@[simp] theorem acceptByte_freeCtr (b : Byte) (s : State) : (acceptByte b s).freeCtr = s.freeCtr := by
  obtain ⟨p, u, h, e, q⟩ := acceptByte_shape b s; rw [q]

/-- A byte raises at most one error record. -/
theorem acceptByte_obsErr (b : Byte) (s : State) :
    (acceptByte b s).obsErr = s.obsErr ∨ ∃ e, (acceptByte b s).obsErr = s.obsErr ++ [e] := by
  unfold acceptByte
  cases s.rxPhase <;> dsimp only <;> (try split_ifs) <;> first | exact .inl rfl | exact .inr ⟨_, rfl⟩

/-! ## advance: what it never writes -/

@[simp] theorem advance_cfgMtu (r : Bool) (s : State) : (advance r s).cfgMtu = s.cfgMtu := by
  unfold advance; split <;> rfl
@[simp] theorem advance_cfgRetry (r : Bool) (s : State) : (advance r s).cfgRetry = s.cfgRetry := by
  unfold advance; split <;> rfl
@[simp] theorem advance_cfgStart (r : Bool) (s : State) : (advance r s).cfgStart = s.cfgStart := by
  unfold advance; split <;> rfl
@[simp] theorem advance_ackId (r : Bool) (s : State) : (advance r s).ackId = s.ackId := by
  unfold advance; split <;> rfl
@[simp] theorem advance_ib (r : Bool) (s : State) : (advance r s).ib = s.ib := by
  unfold advance; split <;> rfl
@[simp] theorem advance_lastV (r : Bool) (s : State) : (advance r s).lastV = s.lastV := by
  unfold advance; split <;> rfl
@[simp] theorem advance_lastId (r : Bool) (s : State) : (advance r s).lastId = s.lastId := by
  unfold advance; split <;> rfl
@[simp] theorem advance_tickP (r : Bool) (s : State) : (advance r s).tickP = s.tickP := by
  unfold advance; split <;> rfl
@[simp] theorem advance_tmrPhase (r : Bool) (s : State) : (advance r s).tmrPhase = s.tmrPhase := by
  unfold advance; split <;> rfl
@[simp] theorem advance_rxPhase (r : Bool) (s : State) : (advance r s).rxPhase = s.rxPhase := by
  unfold advance; split <;> rfl
@[simp] theorem advance_rxBuf (r : Bool) (s : State) : (advance r s).rxBuf = s.rxBuf := by
  unfold advance; split <;> rfl
@[simp] theorem advance_rxHold (r : Bool) (s : State) : (advance r s).rxHold = s.rxHold := by
  unfold advance; split <;> rfl
@[simp] theorem advance_txBusy (r : Bool) (s : State) : (advance r s).txBusy = s.txBusy := by
  unfold advance; split <;> rfl
@[simp] theorem advance_txQ (r : Bool) (s : State) : (advance r s).txQ = s.txQ := by
  unfold advance; split <;> rfl
@[simp] theorem advance_obsTx (r : Bool) (s : State) : (advance r s).obsTx = s.obsTx := by
  unfold advance; split <;> rfl
@[simp] theorem advance_obsErr (r : Bool) (s : State) : (advance r s).obsErr = s.obsErr := by
  unfold advance; split <;> rfl
@[simp] theorem advance_replies (r : Bool) (s : State) : (advance r s).replies = s.replies := by
  unfold advance; split <;> rfl
@[simp] theorem advance_history (r : Bool) (s : State) : (advance r s).history = s.history := by
  unfold advance; split <;> rfl
@[simp] theorem advance_rxLine (r : Bool) (s : State) : (advance r s).rxLine = s.rxLine := by
  unfold advance; split <;> rfl
@[simp] theorem advance_hostPort (r : Bool) (s : State) : (advance r s).hostPort = s.hostPort := by
  unfold advance; split <;> rfl
@[simp] theorem advance_hostSel (r : Bool) (s : State) : (advance r s).hostSel = s.hostSel := by
  unfold advance; split <;> rfl
@[simp] theorem advance_agenda (r : Bool) (s : State) : (advance r s).agenda = s.agenda := by
  unfold advance; split <;> rfl
@[simp] theorem advance_freeCtr (r : Bool) (s : State) : (advance r s).freeCtr = s.freeCtr := by
  unfold advance; split <;> rfl

end Sys2Proof.Machine
end

