-- ==== Sys2Proof/Laws/Ops.lean ====
section
/-!
SUPPORT. What each shared operation and each step can do, said once: the proofs cite these and unfold neither the operations nor
the meanings.
-/

namespace Sys2Proof

/-! ## Decoded frames -/

theorem toInstr_eq_frameAck (f : Frame) (a z : Byte) (d : List Byte) :
    f.toInstr = .frameAck a z d ↔ f = ⟨0#8, a, z, d⟩ := by
  rcases f with ⟨i, a', z', d'⟩
  simp only [Frame.toInstr]
  split <;> simp_all

theorem toInstr_eq_frameData (f : Frame) (i a z : Byte) (d : List Byte) :
    f.toInstr = .frameData i a z d ↔ f = ⟨i, a, z, d⟩ ∧ i ≠ 0#8 := by
  rcases f with ⟨i, a', z', d'⟩
  simp only [Frame.toInstr]
  split <;> simp_all
  rintro rfl; simp_all

namespace Machine

/-! ## The sequencer -/

theorem seqSucc_ne_zero (v : Byte) : seqSucc v ≠ 0#8 := by
  unfold seqSucc
  split
  · decide
  · bv_omega

/-! ## ADVANCE -/

theorem advance_idle (r : Bool) (s : State) (h : s.pendV = true ∨ s.ob = []) : advance r s = continueTo r s := by
  have : s.pendV ∨ s.ob.length = 0 := by simpa using h
  simp only [advance, if_pos this]

theorem advance_build (r : Bool) (s : State) (h : s.pendV = false) (h' : s.ob ≠ []) : advance r s = buildFrame r s := by
  have : ¬ (s.pendV ∨ s.ob.length = 0) := by simp [h, h']
  simp only [advance, if_neg this]

/-- The two things ADVANCE can do (42_state_machine.md R150). -/
theorem advance_cases (r : Bool) (s : State) :
    ((s.pendV = true ∨ s.ob = []) ∧ advance r s = continueTo r s) ∨
    (s.pendV = false ∧ s.ob ≠ [] ∧ advance r s = buildFrame r s) := by
  by_cases h : s.pendV = true ∨ s.ob = []
  · exact .inl ⟨h, advance_idle r s h⟩
  · have h' := not_or.mp h
    have hv : s.pendV = false := by simpa using h'.1
    exact .inr ⟨hv, h'.2, advance_build r s hv h'.2⟩

/-- The payload of a new frame is as long as its size says, and 1..MTU bytes. -/
theorem advanceCount_bounds (s : State) (hm : s.cfgMtu ≠ 0#8) (ho : s.ob ≠ []) :
    1 ≤ advanceCount s ∧ advanceCount s ≤ s.cfgMtu.toNat ∧ advanceCount s ≤ s.ob.length ∧
      (BitVec.ofNat 8 (advanceCount s)).toNat = advanceCount s := by
  have h1 : 0 < s.ob.length := List.length_pos_iff.mpr ho
  have h2 : 0 < s.cfgMtu.toNat := by
    rcases Nat.eq_zero_or_pos s.cfgMtu.toNat with h | h
    · exact absurd (BitVec.eq_of_toNat_eq (by simpa using h)) hm
    · exact h
  have h3 : s.cfgMtu.toNat < 256 := s.cfgMtu.isLt
  unfold advanceCount
  refine ⟨by omega, by omega, by omega, ?_⟩
  simp only [BitVec.toNat_ofNat]
  omega

/-! ## Hand-off -/

theorem handoffThen_wf (f : Frame) (k : State → State) (s : State) (h : f.wf = true) :
    handoffThen f k s = .next (k { s with txQ := encodeFrame s.cfgStart f, txBusy := true }) := by
  simp [handoffThen, handoff, h]

theorem handoffThen_not_wf (f : Frame) (k : State → State) (s : State) (h : f.wf = false) :
    handoffThen f k s = .fault .unencodableFrame := by
  simp [handoffThen, handoff, h]

theorem handoffThen_next {f : Frame} {k : State → State} {s t : State} (h : handoffThen f k s = .next t) :
    f.wf = true ∧ t = k { s with txQ := encodeFrame s.cfgStart f, txBusy := true } := by
  cases hf : f.wf
  · rw [handoffThen_not_wf f k s hf] at h; cases h
  · rw [handoffThen_wf f k s hf] at h; cases h; exact ⟨rfl, rfl⟩

theorem ackFrame_wf (s : State) : (ackFrame s).wf = true := rfl

theorem pendFrame_wf (s : State) : (pendFrame s).wf = true ↔ s.pendData.length = s.pendSize.toNat := by
  simp [pendFrame, Frame.wf]

/-! ## The decoder's byte step (40_codec.md R106-R110) -/

theorem acceptByte_hdr (b : Byte) (s : State) (hp : s.rxPhase = .hdr) (hl : s.rxBuf.length < 3) :
    acceptByte b s = { s with rxBuf := s.rxBuf ++ [b] } := by
  have : ¬ s.rxBuf.length = 3 := by omega
  simp [acceptByte, hp, this]

theorem acceptByte_badStart (b h0 h1 h2 : Byte) (s : State) (hp : s.rxPhase = .hdr) (hb : s.rxBuf = [h0, h1, h2])
    (hs : h0 ≠ s.cfgStart) : acceptByte b s = rejectStart s := by
  simp [acceptByte, hp, hb, hs]

theorem acceptByte_header (b h1 h2 : Byte) (s : State) (hp : s.rxPhase = .hdr) (hb : s.rxBuf = [s.cfgStart, h1, h2]) :
    acceptByte b s =
      { s with rxBuf := [s.cfgStart, h1, h2, b], rxPhase := if b = 0#8 then .trl else .pay } := by
  by_cases h : b = 0#8 <;> simp [acceptByte, hp, hb, h]

theorem acceptByte_pay (b h0 h1 h2 h3 : Byte) (d : List Byte) (s : State) (hp : s.rxPhase = .pay)
    (hb : s.rxBuf = [h0, h1, h2, h3] ++ d) :
    acceptByte b s =
      { s with rxBuf := s.rxBuf ++ [b], rxPhase := if d.length + 1 = h3.toNat then .trl else .pay } := by
  have e : (s.rxBuf ++ [b]).length = 4 + ((s.rxBuf ++ [b]).getD 3 0#8).toNat ↔ d.length + 1 = h3.toNat := by
    simp [hb]; omega
  by_cases h : d.length + 1 = h3.toNat
  · simp only [acceptByte, hp, if_pos (e.mpr h), if_pos h]
  · simp only [acceptByte, hp, if_neg (mt e.mp h), if_neg h]

theorem acceptByte_trailer (b h0 h1 h2 h3 : Byte) (d u : List Byte) (s : State) (hp : s.rxPhase = .trl)
    (hd : d.length = h3.toNat) (hb : s.rxBuf = [h0, h1, h2, h3] ++ d ++ u) (hu : u.length < 3) :
    acceptByte b s = { s with rxBuf := s.rxBuf ++ [b] } := by
  have e : ¬ (s.rxBuf ++ [b]).length = 8 + ((s.rxBuf ++ [b]).getD 3 0#8).toNat := by
    simp [hb]; omega
  simp only [acceptByte, hp, if_neg e]

/-- The header and payload, and the trailer, in the bytes of a complete attempt. -/
theorem trailerGood_eq (h0 h1 h2 h3 t0 t1 t2 t3 : Byte) (d : List Byte) (hd : d.length = h3.toNat) :
    trailerGood ([h0, h1, h2, h3] ++ d ++ [t0, t1, t2, t3]) = (crc32 ([h0, h1, h2, h3] ++ d) == fromBe32 t0 t1 t2 t3) := by
  have h4 : ([h0, h1, h2, h3] ++ d).length = 4 + h3.toNat := by simp [hd]; omega
  have g : ([h0, h1, h2, h3] ++ d ++ [t0, t1, t2, t3]).getD 3 0#8 = h3 := by simp
  unfold trailerGood
  rw [g, ← h4, List.take_left, be32At_append]
  simp [be32At]

theorem frameAt_eq (h0 h1 h2 h3 : Byte) (d u : List Byte) (hd : d.length = h3.toNat) :
    frameAt ([h0, h1, h2, h3] ++ d ++ u) = ⟨h1, h2, h3, d⟩ := by
  simp [frameAt, ← hd]

theorem acceptByte_verdict (t0 t1 t2 t3 h0 h1 h2 h3 : Byte) (d : List Byte) (s : State) (hp : s.rxPhase = .trl)
    (hd : d.length = h3.toNat) (hb : s.rxBuf = [h0, h1, h2, h3] ++ d ++ [t0, t1, t2]) :
    acceptByte t3 s =
      if crc32 ([h0, h1, h2, h3] ++ d) = fromBe32 t0 t1 t2 t3 then holdFrame ⟨h1, h2, h3, d⟩ s else rejectTrailer s := by
  have b4 : s.rxBuf ++ [t3] = [h0, h1, h2, h3] ++ d ++ [t0, t1, t2, t3] := by simp [hb]
  have e : (s.rxBuf ++ [t3]).length = 8 + ((s.rxBuf ++ [t3]).getD 3 0#8).toNat := by
    rw [b4]; simp; omega
  simp only [acceptByte, hp, if_pos e]
  rw [b4, trailerGood_eq _ _ _ _ _ _ _ _ _ hd, frameAt_eq _ _ _ _ _ _ hd]
  simp [beq_iff_eq]

theorem acceptByte_hold (b : Byte) (s : State) (hp : s.rxPhase = .hold) : acceptByte b s = s := by
  simp [acceptByte, hp]

/-! ## Configuration -/

theorem configured_iff (s : State) : s.configured = true ↔ s.cfgMtu ≠ 0#8 ∧ 0 < s.cfgRetry := by
  have h : s.cfgMtu.toNat < 256 := s.cfgMtu.isLt
  have e : s.cfgMtu = 0#8 ↔ s.cfgMtu.toNat = 0 := by
    constructor
    · intro h; simp [h]
    · intro h; exact BitVec.eq_of_toNat_eq (by simpa using h)
  simp only [State.configured, legalConfig, decide_eq_true_eq, ne_eq, e]
  omega

/-! ## The meanings: what each can do, where it does not wait -/

theorem execHostWrite_cases (data : List Byte) (s : State) :
    (s.ctl ≠ .loop ∧ execHostWrite data s = .next s) ∨
    (s.ctl = .loop ∧ execHostWrite data s = .next (logStep 0x01#8 (advance false
      (replyWrote data { s with ob := s.ob ++ data })))) := by
  by_cases h : s.ctl = .loop
  · exact .inr ⟨h, by simp [execHostWrite, fsmReady, h, fifoAppend]⟩
  · exact .inl ⟨h, by simp [execHostWrite, fsmReady, h, waits]⟩

theorem execHostRead_cases (n : U32) (s : State) :
    (s.ctl ≠ .loop ∧ execHostRead n s = .next s) ∨
    (s.ctl = .loop ∧ execHostRead n s = .next (logStep 0x02#8
      (replyRead (s.ib.take (readCount n s)) { s with ib := s.ib.drop (readCount n s) }))) := by
  by_cases h : s.ctl = .loop
  · exact .inr ⟨h, by simp [execHostRead, fsmReady, h, fifoTake]⟩
  · exact .inl ⟨h, by simp [execHostRead, fsmReady, h, waits]⟩

theorem canTake_iff (i : Instr) (s : State) :
    canTake i s = true ↔ s.ctl = .loop ∧ s.rxPhase = .hold ∧ s.rxHold.toInstr = i := by
  simp [canTake, and_assoc]

theorem execFrameAck_cases (ack size : Byte) (data : List Byte) (s : State) :
    execFrameAck ack size data s = .next s ∨
    (s.ctl = .loop ∧ s.rxPhase = .hold ∧ s.rxHold = ⟨0#8, ack, size, data⟩ ∧
      ((s.pendV = true ∧ s.pendId = ack ∧ execFrameAck ack size data s =
          .next (logStep 0x10#8 (advance false { s with rxPhase := .hdr, pendV := false }))) ∨
       (¬(s.pendV = true ∧ s.pendId = ack) ∧ execFrameAck ack size data s =
          .next (logStep 0x10#8 { s with rxPhase := .hdr })))) := by
  by_cases h : canTake (.frameAck ack size data) s = true
  · obtain ⟨hc, hr, hh⟩ := (canTake_iff _ s).mp h
    refine .inr ⟨hc, hr, (toInstr_eq_frameAck _ _ _ _).mp hh, ?_⟩
    by_cases hm : s.pendV = true ∧ s.pendId = ack
    · exact .inl ⟨hm.1, hm.2, by simp [execFrameAck, h, ackMatches, hm]⟩
    · refine .inr ⟨hm, ?_⟩
      have : (s.pendV && s.pendId == ack) = false := by
        cases hv : s.pendV <;> simp_all
      simp [execFrameAck, h, ackMatches, this, hc]
  · exact .inl (by simp [execFrameAck, h, waits])

theorem execFrameData_cases (id ack size : Byte) (data : List Byte) (s : State) :
    execFrameData id ack size data s = .next s ∨
    (s.ctl = .loop ∧ s.rxPhase = .hold ∧ s.rxHold = ⟨id, ack, size, data⟩ ∧ id ≠ 0#8 ∧
      ((s.lastV = true ∧ s.lastId = id ∧ execFrameData id ack size data s =
          .next (logStep 0x11#8 { s with rxPhase := .hdr, ackId := id, ctl := .ackWait })) ∨
       (¬(s.lastV = true ∧ s.lastId = id) ∧ execFrameData id ack size data s =
          .next (logStep 0x11#8 { s with
            rxPhase := .hdr, ib := s.ib ++ data, lastV := true, lastId := id, ackId := id, ctl := .ackWait })))) := by
  by_cases h : canTake (.frameData id ack size data) s = true
  · obtain ⟨hc, hr, hh⟩ := (canTake_iff _ s).mp h
    obtain ⟨hf, hi⟩ := (toInstr_eq_frameData _ _ _ _ _).mp hh
    refine .inr ⟨hc, hr, hf, hi, ?_⟩
    by_cases hm : s.lastV = true ∧ s.lastId = id
    · exact .inl ⟨hm.1, hm.2, by simp [execFrameData, h, isDuplicate, hm]⟩
    · refine .inr ⟨hm, ?_⟩
      have : (s.lastV && s.lastId == id) = false := by
        cases hv : s.lastV <;> simp_all
      simp [execFrameData, h, isDuplicate, this, acceptNew, fifoAppend]
  · exact .inl (by simp [execFrameData, h, waits])

theorem execTick_cases (s : State) :
    (¬(s.ctl = .loop ∧ s.tickP = true) ∧ execTick s = .next s) ∨
    (s.ctl = .loop ∧ s.tickP = true ∧ execTick s = .next (logStep 0x20#8 (advance true { s with tickP := false }))) := by
  by_cases h : canTick s = true
  · have h' : s.ctl = .loop ∧ s.tickP = true := by simpa [canTick] using h
    exact .inr ⟨h'.1, h'.2, by simp [execTick, h]⟩
  · exact .inl ⟨by simpa [canTick] using h, by simp [execTick, h, waits]⟩

theorem execAdvHandoff_cases (s : State) :
    (¬(s.ctl = .advWait ∧ s.txBusy = false) ∧ execAdvHandoff s = .next s) ∨
    (s.ctl = .advWait ∧ s.txBusy = false ∧ execAdvHandoff s =
      handoffThen (pendFrame s) (fun t => logStep 0x30#8 (continueTo t.ret t)) s) := by
  by_cases h : canAdvHandoff s = true
  · have h' : s.ctl = .advWait ∧ s.txBusy = false := by simpa [canAdvHandoff, txReady] using h
    exact .inr ⟨h'.1, h'.2, by simp [execAdvHandoff, h]⟩
  · exact .inl ⟨by simpa [canAdvHandoff, txReady] using h, by simp [execAdvHandoff, h, waits]⟩

theorem execAdvAbandon_cases (s : State) :
    (¬(s.ctl = .advWait ∧ s.tickP = true) ∧ execAdvAbandon s = .next s) ∨
    (s.ctl = .advWait ∧ s.tickP = true ∧ execAdvAbandon s =
      .next (logStep 0x31#8 (continueTo s.ret { s with tickP := false }))) := by
  by_cases h : canAdvAbandon s = true
  · have h' : s.ctl = .advWait ∧ s.tickP = true := by simpa [canAdvAbandon] using h
    exact .inr ⟨h'.1, h'.2, by simp [execAdvAbandon, h]⟩
  · exact .inl ⟨by simpa [canAdvAbandon] using h, by simp [execAdvAbandon, h, waits]⟩

theorem execResendTry_cases (s : State) :
    (s.ctl ≠ .resendTry ∧ execResendTry s = .next s) ∨
    (s.ctl = .resendTry ∧ s.pendV = true ∧ s.txBusy = false ∧ execResendTry s =
      handoffThen (pendFrame s) (fun t => logStep 0x40#8 { t with ctl := .loop }) s) ∨
    (s.ctl = .resendTry ∧ ¬(s.pendV = true ∧ s.txBusy = false) ∧ execResendTry s =
      .next (logStep 0x40#8 { s with ctl := .loop })) := by
  by_cases h : s.ctl = .resendTry
  · by_cases hw : willResend s = true
    · have h' : s.pendV = true ∧ s.txBusy = false := by simpa [willResend, txReady] using hw
      exact .inr (.inl ⟨h, h'.1, h'.2, by simp [execResendTry, canResendTry, h, hw]⟩)
    · exact .inr (.inr ⟨h, by simpa [willResend, txReady] using hw, by simp [execResendTry, canResendTry, h, hw]⟩)
  · exact .inl ⟨h, by simp [execResendTry, canResendTry, h, waits]⟩

theorem execAckHandoff_cases (s : State) :
    (¬(s.ctl = .ackWait ∧ s.txBusy = false) ∧ execAckHandoff s = .next s) ∨
    (s.ctl = .ackWait ∧ s.txBusy = false ∧ execAckHandoff s =
      .next (logStep 0x50#8 { s with txQ := encodeFrame s.cfgStart (ackFrame s), txBusy := true, ctl := .loop })) := by
  by_cases h : canAckHandoff s = true
  · have h' : s.ctl = .ackWait ∧ s.txBusy = false := by simpa [canAckHandoff, txReady] using h
    exact .inr ⟨h'.1, h'.2, by simp only [execAckHandoff, h, if_true, handoffThen_wf _ _ _ (ackFrame_wf s)]⟩
  · exact .inl ⟨by simpa [canAckHandoff, txReady] using h, by simp [execAckHandoff, h, waits]⟩

theorem execRxByte_cases (s : State) :
    ((s.rxPhase = .hold ∨ s.rxLine = []) ∧ execRxByte s = .next s) ∨
    (∃ b rest, s.rxPhase ≠ .hold ∧ s.rxLine = b :: rest ∧
      execRxByte s = .next (logStep 0x80#8 (acceptByte b { s with rxLine := rest }))) := by
  by_cases h : s.rxPhase = .hold
  · exact .inl ⟨.inl h, by simp [execRxByte, rxReading, h, waits]⟩
  · cases hl : s.rxLine with
    | nil         => exact .inl ⟨.inr rfl, by simp [execRxByte, hl, waits]⟩
    | cons b rest => exact .inr ⟨b, rest, h, rfl, by simp [execRxByte, rxReading, h, hl]⟩

theorem execFrameBadStart_cases (h0 h1 h2 h3 : Byte) (s : State) :
    execFrameBadStart h0 h1 h2 h3 s = .next s ∨
    (∃ rest, s.rxPhase = .hdr ∧ s.rxBuf = [h0, h1, h2] ∧ s.rxLine = h3 :: rest ∧ h0 ≠ s.cfgStart ∧
      execFrameBadStart h0 h1 h2 h3 s = .next (logStep 0x80#8 (rejectStart { s with rxLine := rest }))) := by
  by_cases h : s.rxPhase = .hdr ∧ s.rxBuf = [h0, h1, h2] ∧ s.rxLine.head? = some h3 ∧ h0 ≠ s.cfgStart
  · obtain ⟨hp, hb, hl, hs⟩ := h
    obtain ⟨rest, hr⟩ : ∃ rest, s.rxLine = h3 :: rest := by
      cases he : s.rxLine <;> simp_all
    exact .inr ⟨rest, hp, hb, hr, hs, by simp [execFrameBadStart, hp, hb, hr, hs]⟩
  · exact .inl (by simp only [execFrameBadStart, if_neg h, waits])

theorem execRxIoerr_cases (s : State) :
    (s.rxPhase = .hold ∧ execRxIoerr s = .next s) ∨
    (s.rxPhase ≠ .hold ∧ execRxIoerr s = .next (logStep 0x81#8 (abortAttempt s))) := by
  by_cases h : s.rxPhase = .hold
  · exact .inl ⟨h, by simp [execRxIoerr, rxReading, h, waits]⟩
  · exact .inr ⟨h, by simp [execRxIoerr, rxReading, h]⟩

theorem execTxByte_cases (s : State) :
    ((s.txBusy = false ∨ s.txQ = []) ∧ execTxByte s = .next s) ∨
    (∃ b rest, s.txBusy = true ∧ s.txQ = b :: rest ∧ execTxByte s = .next (logStep 0x90#8
      { s with obsTx := s.obsTx ++ [b], txQ := rest, txBusy := !rest.isEmpty })) := by
  cases h : s.txBusy
  · exact .inl ⟨.inl rfl, by simp [execTxByte, h, waits]⟩
  · cases hl : s.txQ with
    | nil         => exact .inl ⟨.inr rfl, by simp [execTxByte, hl, waits]⟩
    | cons b rest => exact .inr ⟨b, rest, rfl, rfl, by simp [execTxByte, h, hl]⟩

theorem execTxErr_cases (s : State) :
    (s.txBusy = false ∧ execTxErr s = .next s) ∨
    (s.txBusy = true ∧ execTxErr s = .next (logStep 0x91#8 { raiseErr .txError s with txQ := [], txBusy := false })) := by
  cases h : s.txBusy
  · exact .inl ⟨rfl, by simp [execTxErr, canTxErr, h, waits]⟩
  · exact .inr ⟨rfl, by simp [execTxErr, canTxErr, h]⟩

/-! ## What is fetched -/

/-- The states an instruction is fetched in differ from the state before only in the model's own fields and the host port. -/
theorem fetchHost_cases (k : Nat) (s : State) :
    fetchHost k s = .done s ∨
    (∃ i hs hp, (i.port = .host) ∧ fetchHost k s = .run i { s with hostSel := hs, hostPort := hp } ∧
      (s.ctl ≠ .loop → hs = s.hostSel ∧ hp = s.hostPort)) := by
  unfold fetchHost
  cases hq : s.hostPort[k]? with
  | none => exact .inl rfl
  | some q =>
    cases hd : decodeHost q.cmd with
    | reject r => exact .inl (by simp [hd])
    | ok i rest =>
      right
      have hp : i.port = .host := by
        revert hd
        cases hcmd : q.cmd with
        | nil => simp [decodeHost]
        | cons op tl =>
          simp only [decodeHost]
          split_ifs <;> intro h <;> cases h <;> rfl
      by_cases h : s.ctl = .loop
      · refine ⟨i, q.agent, if rest = [] then s.hostPort.eraseIdx k else s.hostPort.set k { q with cmd := rest }, hp, ?_,
          fun hn => absurd h hn⟩
        simp only [hd, fsmReady, h, beq_self_eq_true, if_true, grantHost]
      · exact ⟨i, s.hostSel, s.hostPort, hp, by simp [hd, fsmReady, h], fun _ => ⟨rfl, rfl⟩⟩

theorem fetchHeld_cases (s : State) :
    fetchHeld s = .done s ∨ (s.rxPhase = .hold ∧ fetchHeld s = .run s.rxHold.toInstr s) := by
  unfold fetchHeld
  by_cases h : s.rxPhase = .hold
  · exact .inr ⟨h, if_pos h⟩
  · exact .inl (if_neg h)

theorem fetchByte_run (s : State) : ∃ i, fetchByte s = .run i s := by
  unfold fetchByte
  cases s.rxLine with
  | nil => exact ⟨_, rfl⟩
  | cons b rest => by_cases h : badHeader s = true <;> simp [h]

/-- Where the offered byte completes no bad header, RX_BYTE is fetched. -/
theorem fetchByte_rxByte {s : State} (h : badHeader s = false) : fetchByte s = .run .rxByte s := by
  unfold fetchByte
  cases s.rxLine <;> simp [h]

/-- Where the offered byte completes a header with a bad start, FRAME_BAD_START is fetched (40_codec.md R107). -/
theorem fetchByte_badStart {s : State} {h0 h1 h2 b : Byte} {rest : List Byte} (hp : s.rxPhase = .hdr)
    (hb : s.rxBuf = [h0, h1, h2]) (hl : s.rxLine = b :: rest) (hs : h0 ≠ s.cfgStart) :
    fetchByte s = .run (.frameBadStart h0 h1 h2 b) s := by
  simp [fetchByte, hl, badHeader, hp, hb, hs, classifyHeader]

theorem ofLabel_cases (l : Byte) (s : State) (f : Fetched) :
    ofLabel l s f = f ∨ ofLabel l s f = .done s := by
  cases f with
  | run i t => by_cases h : i.label = some l <;> simp [ofLabel, h]
  | done t => exact .inl rfl
  | refuse r => exact .inl rfl

/-- A step that a schedule names is fetched in a state that differs only in the host port, is not there, or is refused. -/
theorem fetchPick_cases (p : Pick) (s : State) :
    fetchPick p s = .done s ∨
    (∃ i hs hp, fetchPick p s = .run i { s with hostSel := hs, hostPort := hp } ∧
      (s.ctl ≠ .loop → hs = s.hostSel ∧ hp = s.hostPort)) ∨
    (∃ b, p = .agent b ∧ fetchPick p s = .refuse (.unusedStepLabel b)) := by
  have host : ∀ k, fetchHost k s = .done s ∨ (∃ i hs hp, fetchHost k s = .run i { s with hostSel := hs, hostPort := hp } ∧
      (s.ctl ≠ .loop → hs = s.hostSel ∧ hp = s.hostPort)) := fun k => by
    rcases fetchHost_cases k s with h | ⟨i, hs, hp, -, h, h'⟩
    · exact .inl h
    · exact .inr ⟨i, hs, hp, h, h'⟩
  have held : fetchHeld s = .done s ∨ ∃ i, fetchHeld s = .run i s := by
    rcases fetchHeld_cases s with h | ⟨-, h⟩
    · exact .inl h
    · exact .inr ⟨_, h⟩
  cases p with
  | serve k =>
    rcases host k with h | h
    · exact .inl h
    · exact .inr (.inl h)
  | take =>
    rcases held with h | ⟨i, h⟩
    · exact .inl h
    · exact .inr (.inl ⟨i, s.hostSel, s.hostPort, h, fun _ => ⟨rfl, rfl⟩⟩)
  | agent b =>
    by_cases h1 : b = 0x01#8 ∨ b = 0x02#8
    · have e : fetchPick (.agent b) s = ofLabel b s (fetchHost 0 s) := by simp only [fetchPick, fetchLabel, if_pos h1]
      rw [e]
      rcases ofLabel_cases b s (fetchHost 0 s) with h | h <;> rw [h]
      · rcases host 0 with h | h
        · exact .inl h
        · exact .inr (.inl h)
      · exact .inl rfl
    · by_cases h2 : b = 0x10#8 ∨ b = 0x11#8
      · have e : fetchPick (.agent b) s = ofLabel b s (fetchHeld s) := by
          simp only [fetchPick, fetchLabel, if_neg h1, if_pos h2]
        rw [e]
        rcases ofLabel_cases b s (fetchHeld s) with h | h <;> rw [h]
        · rcases held with h | ⟨i, h⟩
          · exact .inl h
          · exact .inr (.inl ⟨i, s.hostSel, s.hostPort, h, fun _ => ⟨rfl, rfl⟩⟩)
        · exact .inl rfl
      · by_cases h3 : b = 0x80#8
        · have e : fetchPick (.agent b) s = fetchByte s := by
            simp only [fetchPick, fetchLabel, if_neg h1, if_neg h2, if_pos h3]
          obtain ⟨i, h⟩ := fetchByte_run s
          exact .inr (.inl ⟨i, s.hostSel, s.hostPort, by rw [e, h], fun _ => ⟨rfl, rfl⟩⟩)
        · simp only [fetchPick, fetchLabel, if_neg h1, if_neg h2, if_neg h3]
          cases hd : decodeLabel [b] with
          | ok i rest => exact .inr (.inl ⟨i, s.hostSel, s.hostPort, rfl, fun _ => ⟨rfl, rfl⟩⟩)
          | reject r => exact .inr (.inr ⟨b, rfl, rfl⟩)

/-! ## What is refused -/

theorem decodeHost_reserved {cmd rest : List Byte} {op : Byte} (h : decodeHost cmd = .ok (.hostReserved op) rest) :
    op ≠ 0x01#8 ∧ op ≠ 0x02#8 ∧ cmd.head? = some op := by
  cases cmd with
  | nil => simp [decodeHost] at h
  | cons c tl =>
    simp only [decodeHost] at h
    split_ifs at h <;> cases h
    simp_all

theorem fetchHost_reserved {k : Nat} {s u : State} {op : Byte} (h : fetchHost k s = .run (.hostReserved op) u) :
    op ≠ 0x01#8 ∧ op ≠ 0x02#8 ∧ ∃ q ∈ s.hostPort, q.cmd.head? = some op := by
  unfold fetchHost at h
  cases hq : s.hostPort[k]? with
  | none => simp [hq] at h
  | some q =>
    simp only [hq] at h
    cases hd : decodeHost q.cmd with
    | reject r => simp [hd] at h
    | ok i rest =>
      simp only [hd, Fetched.run.injEq] at h
      obtain ⟨rfl, -⟩ := h
      obtain ⟨h1, h2, h3⟩ := decodeHost_reserved hd
      exact ⟨h1, h2, q, List.mem_of_getElem? hq, h3⟩

theorem fetchHeld_not_reserved {s u : State} {op : Byte} : fetchHeld s ≠ .run (.hostReserved op) u := by
  intro h
  unfold fetchHeld Frame.toInstr at h
  split_ifs at h <;> cases h

theorem fetchByte_not_reserved {s u : State} {op : Byte} : fetchByte s ≠ .run (.hostReserved op) u := by
  intro h
  unfold fetchByte classifyHeader Frame.toInstr at h
  split at h
  · cases h
  · split_ifs at h <;> cases h

theorem ofLabel_run {l : Byte} {s u : State} {f : Fetched} {i : Instr} (h : ofLabel l s f = .run i u) : f = .run i u := by
  rcases ofLabel_cases l s f with h' | h'
  · rw [← h', h]
  · rw [h'] at h; cases h

/-- A reserved opcode is met only where it stands at the host port. -/
theorem fetchPick_reserved {p : Pick} {s u : State} {op : Byte} (h : fetchPick p s = .run (.hostReserved op) u) :
    op ≠ 0x01#8 ∧ op ≠ 0x02#8 ∧ ∃ q ∈ s.hostPort, q.cmd.head? = some op := by
  cases p with
  | serve k => exact fetchHost_reserved h
  | take => exact absurd h fetchHeld_not_reserved
  | agent b =>
    simp only [fetchPick, fetchLabel] at h
    split_ifs at h
    · exact fetchHost_reserved (ofLabel_run h)
    · exact absurd (ofLabel_run h) fetchHeld_not_reserved
    · exact absurd h fetchByte_not_reserved
    · exfalso
      revert h
      cases hd : decodeLabel [b] with
      | reject r => simp
      | ok i rest =>
        simp only [Fetched.run.injEq]
        rintro ⟨rfl, -⟩
        simp only [decodeLabel] at hd
        cases hl : labelTable.lookup b with
        | none => rw [hl] at hd; simp only at hd; split_ifs at hd
        | some j =>
          rw [hl] at hd; cases hd
          have := List.lookup_eq_some_iff.mp hl
          obtain ⟨l1, l2, e, -⟩ := this
          have hm : (b, Instr.hostReserved op) ∈ labelTable := by rw [e]; simp
          simp [labelTable] at hm

/-- Only a label that R81 leaves unused is refused. -/
theorem fetchLabel_refused {b : Byte} {s : State} {r : Refusal} (h : fetchLabel b s = .refuse r) :
    b ∉ [0x01#8, 0x02#8, 0x10#8, 0x11#8, 0x20#8, 0x30#8, 0x31#8, 0x40#8, 0x50#8, 0x80#8, 0x81#8, 0x90#8, 0x91#8, 0xA0#8] := by
  intro hb
  fin_cases hb
  all_goals first
    | (rw [show fetchLabel _ s = Fetched.run _ s from rfl] at h; cases h)
    | (obtain ⟨i, hi⟩ := fetchByte_run s
       rw [show fetchLabel _ s = fetchByte s from rfl, hi] at h; cases h)
    | (revert h
       rcases fetchHost_cases 0 s with e | ⟨i, hs, hp, -, e, -⟩ <;>
         rw [show fetchLabel _ s = ofLabel _ s (fetchHost 0 s) from rfl, e] <;> simp only [ofLabel] <;> (try split) <;> intro h <;> cases h)
    | (revert h
       rcases fetchHeld_cases s with e | ⟨-, e⟩ <;>
         rw [show fetchLabel _ s = ofLabel _ s (fetchHeld s) from rfl, e] <;> simp only [ofLabel] <;> (try split) <;> intro h <;> cases h)

/-! ## A step -/

/-- The parts of a state that fetching writes: the model's own fields and the host port. -/
def Refetched (s u : State) : Prop :=
  ∃ ag fc hs hp, u = { s with agenda := ag, freeCtr := fc, hostSel := hs, hostPort := hp }

/-- The steps the eager schedule names (30_encoding.md R83). -/
theorem eagerPick_mem {s : State} {p : Pick} (h : eagerPick s = some p) :
    p = .take ∨ (∃ k, p = .serve k) ∨ (∃ b, p = .agent b ∧ b ∈ [0x90#8, 0x80#8, 0x20#8, 0x30#8, 0x31#8, 0x40#8, 0x50#8]) := by
  unfold eagerPick at h
  split at h
  · cases h; exact .inr (.inr ⟨_, rfl, by decide⟩)
  split at h
  · cases h; exact .inr (.inr ⟨_, rfl, by decide⟩)
  unfold eagerFsm at h
  split at h
  · unfold eagerEvent at h
    split at h
    · cases h; exact .inl rfl
    split at h
    · cases h; exact .inr (.inl ⟨_, rfl⟩)
    · split at h <;> cases h
      exact .inr (.inr ⟨_, rfl, by decide⟩)
  · split at h
    · cases h; exact .inr (.inr ⟨_, rfl, by decide⟩)
    · split at h <;> cases h
      exact .inr (.inr ⟨_, rfl, by decide⟩)
  · cases h; exact .inr (.inr ⟨_, rfl, by decide⟩)
  · split at h <;> cases h
    exact .inr (.inr ⟨_, rfl, by decide⟩)

/-- A label of the table that is no RX_BYTE fetches its own instruction (30_encoding.md R81). -/
theorem fetchPick_label (s : State) (b : Byte) (i : Instr) (h : (b, i) ∈ labelTable) (hb : b ≠ 0x80#8) :
    fetchPick (.agent b) s = .run i s := by
  have all : ∀ row ∈ labelTable, row.1 ≠ 0x80#8 → fetchPick (.agent row.1) s = .run row.2 s := by
    intro row hr hne
    fin_cases hr <;> first | rfl | exact absurd rfl hne
  exact all (b, i) h hb

/-- A label of the eager schedule is never refused. -/
theorem fetchPick_eager {s : State} {p : Pick} (h : eagerPick s = some p) (u : State) (b : Byte) (hb : p = .agent b) :
    ∃ i, fetchPick p u = .run i u := by
  rcases eagerPick_mem h with h | ⟨k, h⟩ | ⟨c, h, hc⟩
  · simp [h] at hb
  · simp [h] at hb
  · subst h
    simp only [List.mem_cons, List.not_mem_nil, or_false] at hc
    rcases hc with rfl | rfl | rfl | rfl | rfl | rfl | rfl
    · exact ⟨_, fetchPick_label u _ .txByte (by decide) (by decide)⟩
    · exact fetchByte_run u
    · exact ⟨_, fetchPick_label u _ .tick (by decide) (by decide)⟩
    · exact ⟨_, fetchPick_label u _ .advHandoff (by decide) (by decide)⟩
    · exact ⟨_, fetchPick_label u _ .advAbandon (by decide) (by decide)⟩
    · exact ⟨_, fetchPick_label u _ .resendTry (by decide) (by decide)⟩
    · exact ⟨_, fetchPick_label u _ .ackHandoff (by decide) (by decide)⟩

/-- What is fetched where the agenda says it. -/
theorem fetch_agenda {s : State} {a : Act} {rest : List Act} (hc : s.configured = true) (ha : s.agenda = a :: rest) :
    fetch s = fetchAct a { s with agenda := rest } := by
  simp [fetch, hc, ha]

/-- What is fetched where the agenda is empty (log 6). -/
theorem fetch_free {s : State} (hc : s.configured = true) (ha : s.agenda = []) :
    fetch s = fetchAct (Config.freeAct s.freeCtr) { s with freeCtr := s.freeCtr + 1 } := by
  simp [fetch, hc, ha]

/-- What a fetch can do (log 6, log 7; 70_reset_and_hazards.md R251). -/
theorem fetch_cases (s : State) :
    (s.configured = true ∧ (∀ e, s.nextAct ≠ .env e) ∧ ∃ i u, Refetched s u ∧ fetch s = .run i u) ∨
    (s.configured = true ∧ (∀ e, s.nextAct ≠ .env e) ∧ ∃ u, Refetched s u ∧ fetch s = .done u) ∨
    (s.configured = true ∧ ∃ e ag fc, s.nextAct = .env e ∧ fetch s = fetchEnv e { s with agenda := ag, freeCtr := fc }) ∨
    (s.configured = true ∧ (∃ b, s.nextAct = .pick (.agent b) ∧ fetch s = .refuse (.unusedStepLabel b))) ∨
    (s.configured = false ∧ fetch s = .refuse (.illegalConfiguration s.cfgMtu.toNat s.cfgRetry)) := by
  cases hc : s.configured
  · simp [fetch, hc]
  have pick : ∀ (p : Pick) (ag : List Act) (fc : Nat), fetch s = fetchPick p { s with agenda := ag, freeCtr := fc } →
      (∃ i u, Refetched s u ∧ fetch s = .run i u) ∨ (∃ u, Refetched s u ∧ fetch s = .done u) ∨
      (∃ b, p = .agent b ∧ fetch s = .refuse (.unusedStepLabel b)) := by
    intro p ag fc he
    rcases fetchPick_cases p { s with agenda := ag, freeCtr := fc } with h | ⟨i, hs, hp, h, -⟩ | ⟨b, hb, h⟩
    · exact .inr (.inl ⟨_, ⟨ag, fc, s.hostSel, s.hostPort, rfl⟩, he.trans h⟩)
    · exact .inl ⟨i, _, ⟨ag, fc, hs, hp, rfl⟩, he.trans h⟩
    · exact .inr (.inr ⟨b, hb, he.trans h⟩)
  have act : ∀ (a : Act) (ag : List Act) (fc : Nat), s.nextAct = a →
      fetch s = fetchAct a { s with agenda := ag, freeCtr := fc } →
      ((∀ e, s.nextAct ≠ .env e) ∧ ∃ i u, Refetched s u ∧ fetch s = .run i u) ∨
      ((∀ e, s.nextAct ≠ .env e) ∧ ∃ u, Refetched s u ∧ fetch s = .done u) ∨
      (∃ e ag fc, s.nextAct = .env e ∧ fetch s = fetchEnv e { s with agenda := ag, freeCtr := fc }) ∨
      (∃ b, s.nextAct = .pick (.agent b) ∧ fetch s = .refuse (.unusedStepLabel b)) := by
    intro a ag fc hn he
    cases a with
    | pick p =>
      have ne : ∀ e, s.nextAct ≠ .env e := fun e h => by rw [hn] at h; cases h
      rcases pick p ag fc he with h | h | ⟨b, hb, h⟩
      · exact .inl ⟨ne, h⟩
      · exact .inr (.inl ⟨ne, h⟩)
      · exact .inr (.inr (.inr ⟨b, by rw [hn, hb], h⟩))
    | env e => exact .inr (.inr (.inl ⟨e, ag, fc, hn, he⟩))
    | settle =>
      have ne : ∀ e, s.nextAct ≠ .env e := fun e h => by rw [hn] at h; cases h
      cases hp : eagerPick { s with agenda := ag, freeCtr := fc } with
      | none => exact .inr (.inl ⟨ne, _, ⟨ag, fc, s.hostSel, s.hostPort, rfl⟩, by rw [he]; simp [fetchAct, hp]⟩)
      | some p =>
        have he' : fetch s = fetchPick p { s with agenda := .settle :: ag, freeCtr := fc } := by
          rw [he]; simp [fetchAct, hp]
        rcases pick p (.settle :: ag) fc he' with h | h | ⟨b, hb, h⟩
        · exact .inl ⟨ne, h⟩
        · exact .inr (.inl ⟨ne, h⟩)
        · obtain ⟨i, hi⟩ := fetchPick_eager hp { s with agenda := .settle :: ag, freeCtr := fc } b hb
          exact .inl ⟨ne, i, _, ⟨_, _, s.hostSel, s.hostPort, rfl⟩, by rw [he', hi]⟩
  have all : ∃ a ag fc, s.nextAct = a ∧ fetch s = fetchAct a { s with agenda := ag, freeCtr := fc } := by
    cases ha : s.agenda with
    | nil => exact ⟨_, [], s.freeCtr + 1, rfl, by simp [fetch, hc, ha, State.nextAct]⟩
    | cons a rest => exact ⟨_, rest, s.freeCtr, rfl, by simp [fetch, hc, ha, State.nextAct]⟩
  obtain ⟨a, ag, fc, hn, he⟩ := all
  rcases act a ag fc hn he with h | h | h | h
  · exact .inl ⟨rfl, h⟩
  · exact .inr (.inl ⟨rfl, h⟩)
  · exact .inr (.inr (.inl ⟨rfl, h⟩))
  · exact .inr (.inr (.inr (.inl ⟨rfl, h⟩)))

/-- What a fetch runs or refuses comes from a step that a schedule names, or from the environment. -/
theorem fetch_source (s : State) (hc : s.configured = true) :
    (∃ p u, u.hostPort = s.hostPort ∧ fetch s = fetchPick p u) ∨ (∃ u, fetch s = .done u) ∨
    (∃ e u, s.nextAct = .env e ∧ fetch s = fetchEnv e u) := by
  have act : ∀ (a : Act) (u : State), s.nextAct = a → u.hostPort = s.hostPort → fetch s = fetchAct a u →
      (∃ p u, u.hostPort = s.hostPort ∧ fetch s = fetchPick p u) ∨ (∃ u, fetch s = .done u) ∨
      (∃ e u, s.nextAct = .env e ∧ fetch s = fetchEnv e u) := by
    intro a u hn hu he
    cases a with
    | pick p => exact .inl ⟨p, u, hu, he⟩
    | env e => exact .inr (.inr ⟨e, u, hn, he⟩)
    | settle =>
      cases hp : eagerPick u with
      | none => exact .inr (.inl ⟨u, by rw [he]; simp [fetchAct, hp]⟩)
      | some p => exact .inl ⟨p, { u with agenda := .settle :: u.agenda }, hu, by rw [he]; simp [fetchAct, hp]⟩
  rcases ha : s.agenda with _ | ⟨a, rest⟩
  · exact act (Config.freeAct s.freeCtr) { s with freeCtr := s.freeCtr + 1 } (by simp [State.nextAct, ha]) rfl (fetch_free hc ha)
  · exact act a { s with agenda := rest } (by simp [State.nextAct, ha]) rfl (fetch_agenda hc ha)

/-- The environment's input is taken, or it asks for an illegal configuration (70_reset_and_hazards.md R251). -/
theorem fetchEnv_cases (e : Env) (u : State) :
    (∃ t, fetchEnv e u = .done t) ∨
    (∃ mtu retry start, e = .config mtu retry start ∧ legalConfig mtu retry = false ∧
      fetchEnv e u = .refuse (.illegalConfiguration mtu retry)) := by
  cases e with
  | config m r st =>
    cases hl : legalConfig m r
    · exact .inr ⟨m, r, st, rfl, hl, by simp [fetchEnv, hl]⟩
    · exact .inl ⟨_, by simp only [fetchEnv, hl, if_true]; rfl⟩
  | issue a c => exact .inl ⟨_, rfl⟩
  | offer x => exact .inl ⟨_, rfl⟩
  | drop x => exact .inl ⟨_, rfl⟩
  | alter x y => exact .inl ⟨_, rfl⟩
  | noise x y => exact .inl ⟨_, rfl⟩
  | reset => exact .inl ⟨_, rfl⟩

/-- A step runs a reserved opcode only where it stands at the host port (30_encoding.md R78, R80). -/
theorem fetch_reserved {s u : State} {op : Byte} (h : fetch s = .run (.hostReserved op) u) :
    op ≠ 0x01#8 ∧ op ≠ 0x02#8 ∧ ∃ q ∈ s.hostPort, q.cmd.head? = some op := by
  cases hc : s.configured
  · simp [fetch, hc] at h
  rcases fetch_source s hc with ⟨p, v, hv, e⟩ | ⟨v, e⟩ | ⟨x, v, -, e⟩
  · rw [e] at h; exact hv ▸ fetchPick_reserved h
  · rw [e] at h; cases h
  · rw [e] at h; rcases fetchEnv_cases x v with ⟨w, e'⟩ | ⟨_, _, _, -, -, e'⟩ <;> rw [e'] at h <;> cases h

/-- A step is refused for its label only where R81 leaves the label unused. -/
theorem fetch_unused {s : State} {b : Byte} (h : fetch s = .refuse (.unusedStepLabel b)) :
    b ∉ [0x01#8, 0x02#8, 0x10#8, 0x11#8, 0x20#8, 0x30#8, 0x31#8, 0x40#8, 0x50#8, 0x80#8, 0x81#8, 0x90#8, 0x91#8, 0xA0#8] := by
  cases hc : s.configured
  · simp [fetch, hc] at h
  rcases fetch_source s hc with ⟨p, v, hv, e⟩ | ⟨v, e⟩ | ⟨x, v, -, e⟩
  · rw [e] at h
    rcases fetchPick_cases p v with e' | ⟨i, hs, hp, e', -⟩ | ⟨c, rfl, e'⟩
    · rw [e'] at h; cases h
    · rw [e'] at h; cases h
    · rw [e'] at h; cases h; exact fetchLabel_refused e'
  · rw [e] at h; cases h
  · rw [e] at h; rcases fetchEnv_cases x v with ⟨w, e'⟩ | ⟨_, _, _, -, -, e'⟩ <;> rw [e'] at h <;> cases h

/-- What the environment can do: add inputs that wait, or reset to a legal configuration. -/
theorem fetchEnv_done {e : Env} {s t : State} (h : fetchEnv e s = .done t) :
    (e ≠ .reset ∧ (∀ mtu retry start, e ≠ .config mtu retry start) ∧ ∃ hp rl, t = { s with hostPort := hp, rxLine := rl }) ∨
    (e = .reset ∧ t = applyReset s.cfgMtu s.cfgRetry s.cfgStart s) ∨
    (∃ mtu retry start, e = .config mtu retry start ∧ legalConfig mtu retry = true ∧
      t = applyReset (BitVec.ofNat 8 mtu) retry start s) := by
  cases e with
  | config m r st =>
    by_cases hl : legalConfig m r = true
    · simp only [fetchEnv, hl, if_true, Fetched.done.injEq] at h
      exact .inr (.inr ⟨m, r, st, rfl, hl, h.symm⟩)
    · simp [fetchEnv, hl] at h
  | reset => cases h; exact .inr (.inl ⟨rfl, rfl⟩)
  | issue a c => cases h; exact .inl ⟨by simp, by simp, _, s.rxLine, rfl⟩
  | offer x => cases h; exact .inl ⟨by simp, by simp, s.hostPort, _, rfl⟩
  | drop x => cases h; exact .inl ⟨by simp, by simp, s.hostPort, _, rfl⟩
  | alter x y => cases h; exact .inl ⟨by simp, by simp, s.hostPort, _, rfl⟩
  | noise x y => cases h; exact .inl ⟨by simp, by simp, s.hostPort, _, rfl⟩

/-- What a step that answers a next state can do: run an instruction; add inputs that wait, or nothing; or reset. -/
theorem step_next {s t : State} (h : step s = .next t) :
    s.configured = true ∧
    ((s.nextResets = false ∧ ∃ i u, Refetched s u ∧ exec i u = .next t) ∨
     (s.nextResets = false ∧ ∃ u hp rl, Refetched s u ∧ t = { u with hostPort := hp, rxLine := rl }) ∨
     (∃ u mtu retry start, Refetched s u ∧ s.nextResets = true ∧ legalConfig mtu.toNat retry = true ∧
        t = applyReset mtu retry start u)) := by
  have nr : (∀ e, s.nextAct ≠ .env e) → s.nextResets = false := fun ne => by
    unfold State.nextResets
    cases ha : s.nextAct with
    | env e => exact absurd ha (ne e)
    | pick p => rfl
    | settle => rfl
  rcases fetch_cases s with ⟨hc, ne, i, u, hu, hf⟩ | ⟨hc, ne, u, hu, hf⟩ | ⟨hc, e, ag, fc, hn, hf⟩ | ⟨hc, b, hn, hf⟩ | ⟨hc, hf⟩
  · simp only [step, hf] at h
    exact ⟨hc, .inl ⟨nr ne, i, u, hu, h⟩⟩
  · simp only [step, hf] at h
    cases h
    exact ⟨hc, .inr (.inl ⟨nr ne, t, t.hostPort, t.rxLine, hu, rfl⟩)⟩
  · have he : fetchEnv e { s with agenda := ag, freeCtr := fc } = .done t := by
      simp only [step, hf] at h
      revert h
      cases e with
      | config m r st => by_cases hl : legalConfig m r = true <;> simp [fetchEnv, hl]
      | issue a c => simp [fetchEnv]
      | offer x => simp [fetchEnv]
      | drop x => simp [fetchEnv]
      | alter x y => simp [fetchEnv]
      | noise x y => simp [fetchEnv]
      | reset => simp [fetchEnv]
    refine ⟨hc, .inr ?_⟩
    have hu : Refetched s { s with agenda := ag, freeCtr := fc } := ⟨ag, fc, s.hostSel, s.hostPort, rfl⟩
    rcases fetchEnv_done he with ⟨n1, n2, hp, rl, ht⟩ | ⟨rfl, ht⟩ | ⟨m, r, st, rfl, hl, ht⟩
    · refine .inl ⟨?_, _, hp, rl, hu, ht⟩
      cases e <;> simp_all [State.nextResets]
    · exact .inr ⟨_, _, _, _, hu, by simp [State.nextResets, hn], hc, ht⟩
    · refine .inr ⟨_, _, _, _, hu, by simp [State.nextResets, hn], ?_, ht⟩
      have hm : 1 ≤ m ∧ m ≤ 255 ∧ 0 < r := of_decide_eq_true hl
      have e8 : (BitVec.ofNat 8 m).toNat = m := by simp only [BitVec.toNat_ofNat]; omega
      rw [e8, hl]
  · simp only [step, hf] at h
    cases h
  · simp only [step, hf] at h
    cases h

end Machine

end Sys2Proof
end

