-- ==== Sys2Proof/Laws/Link.lean ====
section
/-!
SUPPORT. What an act at a link can do, the streams of an end, and a step whose agenda has one entry.
-/

namespace Sys2Proof.Machine

@[simp] theorem Side.peer_peer (x : Side) : x.peer.peer = x := by cases x <;> rfl

/-- There are two ends. -/
theorem Side.eq_or_peer (x z : Side) : z = x ∨ z = x.peer := by cases x <;> cases z <;> simp [Side.peer]

@[simp] theorem replyWrote_obsWritten (data : List Byte) (s : State) :
    (replyWrote data s).obsWritten = s.obsWritten ++ data := by
  simp [State.obsWritten, Reply.writtenData]

@[simp] theorem replyWrote_obsRead (data : List Byte) (s : State) : (replyWrote data s).obsRead = s.obsRead := by
  simp [State.obsRead, Reply.readData]

@[simp] theorem replyRead_obsWritten (data : List Byte) (s : State) : (replyRead data s).obsWritten = s.obsWritten := by
  simp [State.obsWritten, Reply.writtenData]

@[simp] theorem replyRead_obsRead (data : List Byte) (s : State) : (replyRead data s).obsRead = s.obsRead ++ data := by
  simp [State.obsRead, Reply.readData]

/-- Everything an act can do: reset both ends; nothing, where the link does not allow it; or one step of an end, whose bytes the peer
is offered. -/
theorem act_cases {l m : Link} {x : LinkAct} (h : Link.act l x = .next m) :
    (x = .resetBoth ∧ m = l.fresh) ∨
    (∃ side y, x = .endpoint side y ∧ m.cap = l.cap ∧ m.agenda = l.agenda ∧
      ((linkAllows l.cap (l.endAt side.peer) y = false ∧ m = l) ∨
       (linkAllows l.cap (l.endAt side.peer) y = true ∧ step { l.endAt side with agenda := [y] } = .next (m.endAt side) ∧
        m.endAt side.peer = carry (l.endAt side) (m.endAt side) (l.endAt side.peer)))) := by
  cases x with
  | resetBoth =>
    cases h
    exact .inl ⟨rfl, rfl⟩
  | endpoint side y =>
    right
    cases side
    all_goals
      simp only [Link.act, sideStep] at h
      split at h
      · rename_i hal
        split at h
        · rename_i t ht
          cases h
          exact ⟨_, y, rfl, rfl, rfl, .inr ⟨hal, ht, rfl⟩⟩
        · cases h
        · cases h
      · rename_i hal
        cases h
        exact ⟨_, y, rfl, rfl, rfl, .inl ⟨Bool.eq_false_iff.mpr hal, rfl⟩⟩

/-- An act at end A that emits nothing changes end A alone. -/
theorem act_quiet_a {a b t : State} {cap : Option Nat} {ag : List LinkAct} {y : Act} (hal : linkAllows cap b y = true)
    (h : step { a with agenda := [y] } = .next t) (ho : t.obsTx = a.obsTx) :
    Link.act ⟨a, b, cap, ag⟩ (.endpoint .a y) = .next ⟨t, b, cap, ag⟩ := by
  have e : carry a t b = b := by simp [carry, ho]
  simp only [Link.act, sideStep, hal, if_true, h, e]

/-- The same at end B. -/
theorem act_quiet_b {a b t : State} {cap : Option Nat} {ag : List LinkAct} {y : Act} (hal : linkAllows cap a y = true)
    (h : step { b with agenda := [y] } = .next t) (ho : t.obsTx = b.obsTx) :
    Link.act ⟨a, b, cap, ag⟩ (.endpoint .b y) = .next ⟨a, t, cap, ag⟩ := by
  have e : carry b t a = a := by simp [carry, ho]
  simp only [Link.act, sideStep, hal, if_true, h, e]

/-- One entry of the agenda that runs an instruction. -/
theorem step_run {s t : State} {a : Act} {i : Instr} (hc : s.configured = true)
    (h : fetchAct a { s with agenda := [] } = .run i t) : step { s with agenda := [a] } = exec i t := by
  have e := fetch_agenda (s := { s with agenda := [a] }) (a := a) (rest := []) hc rfl
  simp only [step, e, h]

/-- One entry of the agenda that runs none. -/
theorem step_done {s t : State} {a : Act} (hc : s.configured = true) (h : fetchAct a { s with agenda := [] } = .done t) :
    step { s with agenda := [a] } = .next t := by
  have e := fetch_agenda (s := { s with agenda := [a] }) (a := a) (rest := []) hc rfl
  simp only [step, e, h]

/-- One label of the agenda. -/
theorem step_label {s : State} {b : Byte} {i : Instr} (hc : s.configured = true) (h : (b, i) ∈ labelTable) (hb : b ≠ 0x80#8) :
    step { s with agenda := [.pick (.agent b)] } = exec i { s with agenda := [] } :=
  step_run hc (fetchPick_label _ _ _ h hb)

end Sys2Proof.Machine
end

