-- ==== Sys2Proof/Laws/PerInstr.lean ====
section
/-!
SUPPORT. The family EncodedLength: the number of bytes of each instruction's encoding (30_encoding.md R72, R79, R81), for every
instruction as syntax.
-/

namespace Sys2Proof.Laws.EncodedLength

/-- The bytes each encoding takes: `8 + size` for a frame, four for a bad header, five for a host command and its payload,
one for a label or a reserved opcode. -/
def bytes : Instr → Nat
  | .frameAck _ size _       => 8 + size.toNat
  | .frameData _ _ size _    => 8 + size.toNat
  | .frameBadStart _ _ _ _   => 4
  | .hostWrite data          => 5 + data.length
  | .hostRead _              => 5
  | .hostReserved _          => 1
  | .tick                    => 1
  | .advHandoff              => 1
  | .advAbandon              => 1
  | .resendTry               => 1
  | .ackHandoff              => 1
  | .rxByte                  => 1
  | .rxIoerr                 => 1
  | .txByte                  => 1
  | .txErr                   => 1
  | .tmrTick                 => 1

/-- A well-formed instruction's encoding has as many bytes as the spec gives it. -/
def Statement (i : Instr) : Prop := ∀ start, i.wf start = true → (encode start i).length = bytes i

theorem frameAck (ack size : Byte) (data : List Byte) : Statement (.frameAck ack size data) := by
  intro start h
  simp_all [Instr.wf, encode, bytes]

theorem frameData (id ack size : Byte) (data : List Byte) : Statement (.frameData id ack size data) := by
  intro start h
  simp_all [Instr.wf, encode, bytes]

theorem frameBadStart (h0 h1 h2 h3 : Byte) : Statement (.frameBadStart h0 h1 h2 h3) := fun _ _ => rfl

theorem hostWrite (data : List Byte) : Statement (.hostWrite data) := by
  intro start _
  simp [encode, bytes]; omega

theorem hostRead (n : U32) : Statement (.hostRead n) := fun _ _ => rfl
theorem hostReserved (opcode : Byte) : Statement (.hostReserved opcode) := fun _ _ => rfl
theorem tick : Statement .tick := fun _ _ => rfl
theorem advHandoff : Statement .advHandoff := fun _ _ => rfl
theorem advAbandon : Statement .advAbandon := fun _ _ => rfl
theorem resendTry : Statement .resendTry := fun _ _ => rfl
theorem ackHandoff : Statement .ackHandoff := fun _ _ => rfl
theorem rxByte : Statement .rxByte := fun _ _ => rfl
theorem rxIoerr : Statement .rxIoerr := fun _ _ => rfl
theorem txByte : Statement .txByte := fun _ _ => rfl
theorem txErr : Statement .txErr := fun _ _ => rfl
theorem tmrTick : Statement .tmrTick := fun _ _ => rfl

end Sys2Proof.Laws.EncodedLength
end

