-- ==== Sys2Proof/Tests/Slice0.lean ====
section
/-!
SUPPORT. The tests: ill-formed terms, encodings written out from spec/30_encoding.md, single steps with the results of
spec/95_test_vectors.md (each test names its vector or rule), and for every statement with hypotheses a state that meets them.
-/

set_option maxRecDepth 20000

namespace Sys2Proof.Tests

open Sys2Proof.Machine

/-! ## Ill-formed terms are refused -/

/-- R13: the payload's length is the size field. -/
theorem test_wf_ack_length : (Instr.frameAck 1#8 1#8 []).wf 0xA5#8 = false := by decide
theorem test_wf_data_length : (Instr.frameData 1#8 0#8 2#8 [0x68#8]).wf 0xA5#8 = false := by decide
/-- R75 step 2: id 0 is an acknowledgment frame. -/
theorem test_wf_data_id_zero : (Instr.frameData 0#8 0#8 0#8 []).wf 0xA5#8 = false := by decide
/-- R75 step 1: a header with the start marker is no bad start. -/
theorem test_wf_bad_start : (Instr.frameBadStart 0xA5#8 0#8 0#8 0#8).wf 0xA5#8 = false := by decide
/-- R79: the count is 0..2^32-1. -/
theorem test_wf_write_length : (Instr.hostWrite (List.replicate (2 ^ 32) 0#8)).wf 0xA5#8 = false := by
  simp only [Instr.wf, List.length_replicate, Nat.lt_irrefl, decide_false]
/-- R80: 01 and 02 are not reserved. -/
theorem test_wf_reserved_write : (Instr.hostReserved 0x01#8).wf 0xA5#8 = false := by decide
theorem test_wf_reserved_read : (Instr.hostReserved 0x02#8).wf 0xA5#8 = false := by decide

/-! ## Encodings of the spec decode to what they stand for (R70, R75, R79-R81) -/

/-- 95_test_vectors.md V-D10: ACK0. -/
theorem test_decode_ack0 : decode .wire 0xA5#8 [0xA5#8, 0x00#8, 0x00#8, 0x00#8, 0x5B#8, 0xF1#8, 0x36#8, 0x2B#8] =
    .ok (.frameAck 0#8 0#8 []) [] := by decide
/-- V-D8: an acknowledgment with payload. -/
theorem test_decode_ack_payload :
    decode .wire 0xA5#8 [0xA5#8, 0x00#8, 0x01#8, 0x01#8, 0x55#8, 0x7D#8, 0x3D#8, 0x19#8, 0xF6#8] =
    .ok (.frameAck 1#8 1#8 [0x55#8]) [] := by decide
/-- V-D9: a data frame with `ack` not 0. -/
theorem test_decode_data_ack :
    decode .wire 0xA5#8 [0xA5#8, 0x04#8, 0x09#8, 0x01#8, 0x66#8, 0x43#8, 0x9C#8, 0xBE#8, 0x0F#8] =
    .ok (.frameData 4#8 9#8 1#8 [0x66#8]) [] := by decide
/-- V-D6: a flip in byte 0. -/
theorem test_decode_bad_start : decode .wire 0xA5#8 [0xA4#8, 0x01#8, 0x00#8, 0x02#8, 0x41#8] =
    .ok (.frameBadStart 0xA4#8 0x01#8 0x00#8 0x02#8) [0x41#8] := by decide
/-- V-D11: a flip in the trailer. -/
theorem test_decode_checksum :
    decode .wire 0xA5#8 [0xA5#8, 0x01#8, 0x00#8, 0x02#8, 0x41#8, 0x42#8, 0xB7#8, 0x47#8, 0x82#8, 0xD9#8] =
    .reject .checksumMismatch := by decide
/-- V-D4: incomplete input. -/
theorem test_decode_need_more : decode .wire 0xA5#8 [0xA5#8, 0x01#8, 0x00#8, 0x02#8, 0x68#8, 0x69#8, 0x5F#8] =
    .reject .needMore := by decide
theorem test_decode_write : decode .host 0xA5#8 [0x01#8, 0x00#8, 0x00#8, 0x00#8, 0x02#8, 0x68#8, 0x69#8, 0xFF#8] =
    .ok (.hostWrite [0x68#8, 0x69#8]) [0xFF#8] := by decide
theorem test_decode_read : decode .host 0xA5#8 [0x02#8, 0x00#8, 0x00#8, 0x01#8, 0x00#8] = .ok (.hostRead 256#32) [] := by
  decide
theorem test_decode_reserved : decode .host 0xA5#8 [0x00#8] = .ok (.hostReserved 0x00#8) [] ∧
    decode .host 0xA5#8 [0xFF#8, 0x01#8] = .ok (.hostReserved 0xFF#8) [0x01#8] := by decide
theorem test_decode_labels :
    decode .label 0#8 [0x20#8] = .ok .tick [] ∧ decode .label 0#8 [0x30#8] = .ok .advHandoff [] ∧
    decode .label 0#8 [0x31#8] = .ok .advAbandon [] ∧ decode .label 0#8 [0x40#8] = .ok .resendTry [] ∧
    decode .label 0#8 [0x50#8] = .ok .ackHandoff [] ∧ decode .label 0#8 [0x80#8] = .ok .rxByte [] ∧
    decode .label 0#8 [0x81#8] = .ok .rxIoerr [] ∧ decode .label 0#8 [0x90#8] = .ok .txByte [] ∧
    decode .label 0#8 [0x91#8] = .ok .txErr [] ∧ decode .label 0#8 [0xA0#8] = .ok .tmrTick [] := by decide
/-- The labels whose operands stand at another interface, and an unused one (R81). -/
theorem test_decode_label_rejects :
    decode .label 0#8 [0x10#8] = .reject (.operandsElsewhere 0x10#8) ∧
    decode .label 0#8 [0x21#8] = .reject (.unusedLabel 0x21#8) := by decide
/-- V-E6: the trailer of the largest frame, whose payload is 00..FE. -/
theorem test_crc_largest : crc32 ([0xA5#8, 0x07#8, 0x00#8, 0xFF#8] ++ (List.range 255).map (BitVec.ofNat 8)) = 0x1371AADF#32 := by
  decide +kernel
/-- V-E3 and V-E7. -/
theorem test_encode : encodeFrame 0xA5#8 ⟨0#8, 255#8, 0#8, []⟩ = [0xA5#8, 0x00#8, 0xFF#8, 0x00#8, 0xC8#8, 0xD5#8, 0xCB#8, 0x59#8] ∧
    encodeFrame 0xA5#8 ⟨1#8, 0#8, 1#8, [0xA5#8]⟩ =
      [0xA5#8, 0x01#8, 0x00#8, 0x01#8, 0xA5#8, 0x79#8, 0xFE#8, 0xE6#8, 0xB8#8] := by decide

/-! ## The words of the opcode table (log 14) -/

/-- `H = from_be32(S, I, A, Z)` (R71). -/
theorem test_table_frames :
    decodeTableWord 32 0xA5000100 = some (.frameAck 1#8 0#8 []) ∧
    decodeTableWord 32 0xA5010002 = some (.frameData 1#8 0#8 2#8 [0#8, 0#8]) := by decide
theorem test_table_host :
    decodeTableWord 40 0x0200000001 = some (.hostWrite [0#8, 0#8]) ∧ decodeTableWord 40 0x1000000002 = some (.hostRead 16#32) ∧
    decodeTableWord 8 0x03 = some (.hostReserved 0x03#8) := by decide
theorem test_table_labels :
    decodeTableWord 8 0x20 = some .tick ∧ decodeTableWord 8 0x80 = some .rxByte ∧ decodeTableWord 8 0xA0 = some .tmrTick := by
  decide

/-- The labels logged by one step, `none` where the step stops. -/
def logged : Host.Outcome State Fault Refusal → Option (List Byte)
  | .next t    => some t.history
  | .fault _   => none
  | .refused _ => none

/-- A placed word is what the next step fetches and runs. -/
theorem test_table_runs :
    logged (step (State.reset.withFetchWord 32 0xA5010002)) = some [0x11#8] ∧
    logged (step (State.reset.withFetchWord 40 0x0200000001)) = some [0x01#8] ∧
    logged (step (State.reset.withFetchWord 8 0xA0)) = some [0xA0#8] ∧
    step (State.reset.withFetchWord 8 0x03) = .refused (.reservedHostOpcode 0x03#8) := by
  refine ⟨rfl, rfl, rfl, rfl⟩

/-! ## Single steps -/

/-- The state after reset with the configuration of 95_test_vectors.md section 0 ("R0"). -/
def r0 : State := { State.reset with cfgMtu := 200#8, cfgRetry := 10000, cfgStart := 0xA5#8, tmrPhase := 1 }

/-- "PEND = (id, size, data)" of 95_test_vectors.md section 0. -/
def withPend (id : Byte) (d : List Byte) (s : State) : State :=
  { s with pendV := true, pendId := id, pendSize := BitVec.ofNat 8 d.length, pendData := d }

/-- A frame in RX_HOLD. -/
def withHeld (f : Frame) (s : State) : State := { s with rxPhase := .hold, rxHold := f }

/-- TXD busy with these bytes left. -/
def withTx (q : List Byte) (s : State) : State := { s with txBusy := true, txQ := q }

/-- A view of the state after a step that goes on. -/
def after {α : Type} (v : State → α) : Host.Outcome State Fault Refusal → Option α
  | .next t    => some (v t)
  | .fault _   => none
  | .refused _ => none

/-- P1: `host write 68 69` (R142's worked example). -/
theorem test_host_write : after (fun t => (t.ob, t.pendV, pendFrame t, t.seq, t.ctl)) (exec (.hostWrite [0x68#8, 0x69#8]) r0) =
    some ([], true, ⟨1#8, 0#8, 2#8, [0x68#8, 0x69#8]⟩, 2#8, .advWait) := by decide
/-- R150's worked example: `MTU = 2`. -/
theorem test_host_write_mtu : after (fun t => (t.ob, t.pendSize, t.pendData))
    (exec (.hostWrite [1#8, 2#8, 3#8, 4#8, 5#8]) { r0 with cfgMtu := 2#8 }) =
    some ([3#8, 4#8, 5#8], 2#8, [1#8, 2#8]) := by decide
/-- R143's worked example. -/
theorem test_host_read : after (fun t => (t.ib, t.replies.map Reply.bytes))
    (exec (.hostRead 16#32) { r0 with ib := [0x41#8, 0x42#8] }) =
    some ([], [[0#8, 0#8, 0#8, 2#8, 0x41#8, 0x42#8]]) := by decide
/-- R143: a bounded read leaves the rest. -/
theorem test_host_read_part : after (fun t => (t.ib, t.obsRead)) (exec (.hostRead 1#32) { r0 with ib := [0x41#8, 0x42#8] }) =
    some ([0x42#8], [0x41#8]) := by decide
/-- R80, D20. -/
theorem test_host_reserved : exec (.hostReserved 0x03#8) r0 = .refused (.reservedHostOpcode 0x03#8) := rfl
/-- P1: ACK1 clears the pending frame (R145's worked example). -/
theorem test_frame_ack : after (fun t => (t.pendV, t.ctl, t.rxPhase, t.history))
    (exec (.frameAck 1#8 0#8 []) (withHeld ⟨0#8, 1#8, 0#8, []⟩ (withPend 1#8 [0x68#8, 0x69#8] r0))) =
    some (false, .loop, .hdr, [0x10#8]) := by decide
/-- R145: an acknowledgment of another id is ignored. -/
theorem test_frame_ack_other : after (fun t => (t.pendV, t.pendId))
    (exec (.frameAck 2#8 0#8 []) (withHeld ⟨0#8, 2#8, 0#8, []⟩ (withPend 1#8 [0x68#8] r0))) = some (true, 1#8) := by decide
/-- P2: a new data frame (R146's worked example). -/
theorem test_frame_data : after (fun t => (t.ib, t.lastV, t.lastId, t.ackId, t.ctl))
    (exec (.frameData 1#8 0#8 2#8 [0x41#8, 0x42#8]) (withHeld ⟨1#8, 0#8, 2#8, [0x41#8, 0x42#8]⟩ r0)) =
    some ([0x41#8, 0x42#8], true, 1#8, 1#8, .ackWait) := by decide
/-- P2: a duplicate, with another payload, is discarded and acknowledged. -/
theorem test_frame_data_duplicate : after (fun t => (t.ib, t.ackId, t.ctl))
    (exec (.frameData 1#8 0#8 1#8 [0x43#8])
      (withHeld ⟨1#8, 0#8, 1#8, [0x43#8]⟩ { r0 with ib := [0x41#8], lastV := true, lastId := 1#8 })) =
    some ([0x41#8], 1#8, .ackWait) := by decide
/-- V-D3. -/
theorem test_frame_bad_start : after (fun t => (t.obsErr, t.rxBuf, t.rxPhase, t.rxLine))
    (exec (.frameBadStart 0x00#8 0x11#8 0x22#8 0x33#8)
      { r0 with rxBuf := [0x00#8, 0x11#8, 0x22#8], rxLine := [0x33#8, 0x44#8] }) =
    some ([.invalidStart], [], .hdr, [0x44#8]) := by decide
/-- R148. -/
theorem test_tick : after (fun t => (t.tickP, t.ctl, t.pendV)) (exec .tick { withPend 1#8 [0x61#8] r0 with tickP := true }) =
    some (false, .resendTry, true) := by decide
/-- R151's worked example. -/
theorem test_adv_handoff : after (fun t => (t.txQ, t.txBusy, t.ctl, t.pendV))
    (exec .advHandoff { withPend 1#8 [0x68#8, 0x69#8] r0 with ctl := .advWait }) =
    some ([0xA5#8, 0x01#8, 0x00#8, 0x02#8, 0x68#8, 0x69#8, 0x5F#8, 0xBD#8, 0xE4#8, 0x73#8], true, .loop, true) := by decide
/-- R152. -/
theorem test_adv_abandon : after (fun t => (t.tickP, t.ctl, t.pendV, t.txQ))
    (exec .advAbandon { withTx [0x6A#8] (withPend 1#8 [0x68#8] r0) with ctl := .advWait, tickP := true }) =
    some (false, .loop, true, [0x6A#8]) := by decide
/-- P5: R149's worked example. -/
theorem test_resend_try : after (fun t => (t.txQ, t.ctl, t.seq))
    (exec .resendTry { withPend 1#8 [0x61#8, 0x62#8, 0x63#8] r0 with ctl := .resendTry, seq := 2#8 }) =
    some ([0xA5#8, 0x01#8, 0x00#8, 0x03#8, 0x61#8, 0x62#8, 0x63#8, 0x9B#8, 0x73#8, 0xC7#8, 0x2C#8], .loop, 2#8) := by decide
/-- R149: with TXD busy the resend is skipped. -/
theorem test_resend_try_busy : after (fun t => (t.txQ, t.ctl))
    (exec .resendTry { withTx [0x6A#8] (withPend 1#8 [0x61#8] r0) with ctl := .resendTry }) = some ([0x6A#8], .loop) := by decide
/-- P2: R147's worked example. -/
theorem test_ack_handoff : after (fun t => (t.txQ, t.txBusy, t.ctl)) (exec .ackHandoff { r0 with ctl := .ackWait, ackId := 1#8 }) =
    some ([0xA5#8, 0x00#8, 0x01#8, 0x00#8, 0x42#8, 0xEA#8, 0x07#8, 0x6A#8], true, .loop) := by decide
/-- V-D1: the last byte of ACK1. -/
theorem test_rx_byte_frame : after (fun t => (t.rxPhase, t.rxHold, t.rxBuf, t.obsErr))
    (exec .rxByte { r0 with
      rxPhase := .trl, rxBuf := [0xA5#8, 0x00#8, 0x01#8, 0x00#8, 0x42#8, 0xEA#8, 0x07#8], rxLine := [0x6A#8] }) =
    some (.hold, ⟨0#8, 1#8, 0#8, []⟩, [], []) := by decide
/-- V-D5: the last byte of a corrupted frame. -/
theorem test_rx_byte_mismatch : after (fun t => (t.rxPhase, t.rxBuf, t.obsErr.map ErrKind.code))
    (exec .rxByte { r0 with
      rxPhase := .trl, rxBuf := [0xA5#8, 0x01#8, 0x00#8, 0x02#8, 0x41#8, 0xC2#8, 0xB7#8, 0x47#8, 0x82#8],
      rxLine := [0xD8#8] }) = some (.hdr, [], [2#8]) := by decide
/-- R184's worked example. -/
theorem test_rx_ioerr : after (fun t => (t.rxPhase, t.rxBuf, t.obsErr.map ErrKind.code))
    (exec .rxIoerr { r0 with rxBuf := [0xA5#8, 0x01#8] }) = some (.hdr, [], [3#8]) := by decide
/-- R185: the last byte makes TXD ready. -/
theorem test_tx_byte : after (fun t => (t.obsTx, t.txQ, t.txBusy)) (exec .txByte (withTx [0x6A#8] r0)) =
    some ([0x6A#8], [], false) := by decide
theorem test_tx_byte_more : after (fun t => (t.obsTx, t.txQ, t.txBusy)) (exec .txByte (withTx [0x07#8, 0x6A#8] r0)) =
    some ([0x07#8], [0x6A#8], true) := by decide
/-- R186. -/
theorem test_tx_err : after (fun t => (t.txQ, t.txBusy, t.obsErr.map ErrKind.code)) (exec .txErr (withTx [0x07#8, 0x6A#8] r0)) =
    some ([], false, [4#8]) := by decide
/-- R232. -/
theorem test_tmr_tick : after (fun t => t.tickP) (exec .tmrTick r0) = some true := by decide
/-- 10_state.md R22: the codes. -/
theorem test_ctl_codes : [Ctl.loop, .advWait, .resendTry, .ackWait].map Ctl.code = [0#2, 1#2, 2#2, 3#2] := by decide

/-! ## A state that meets the hypotheses of each statement, clause by clause -/

theorem witness_DecodeReadsBackEveryEncoding :
    (Instr.frameAck 255#8 0#8 []).wf 0xA5#8 = true ∧ (Instr.frameAck 1#8 1#8 [0x55#8]).wf 0xA5#8 = true ∧
    (Instr.frameData 1#8 0#8 0#8 []).wf 0xA5#8 = true ∧ (Instr.frameData 255#8 9#8 2#8 [1#8, 2#8]).wf 0xA5#8 = true ∧
    (Instr.frameData 7#8 0#8 255#8 (List.replicate 255 0xA5#8)).wf 0xA5#8 = true ∧
    (Instr.frameBadStart 0xA4#8 0#8 0#8 0#8).wf 0xA5#8 = true ∧ (Instr.hostWrite []).wf 0xA5#8 = true ∧
    (Instr.hostRead 0xFFFFFFFF#32).wf 0xA5#8 = true ∧ (Instr.hostReserved 0x00#8).wf 0xA5#8 = true ∧
    (Instr.hostReserved 0x03#8).wf 0xA5#8 = true ∧ Instr.tmrTick.wf 0xA5#8 = true := by decide

theorem witness_EncodeWritesBackEveryDecoded :
    decode .wire 0xA5#8 [0xA5#8, 0x00#8, 0x01#8, 0x00#8, 0x42#8, 0xEA#8, 0x07#8, 0x6A#8, 9#8] = .ok (.frameAck 1#8 0#8 []) [9#8] ∧
    decode .host 0xA5#8 [0x02#8, 0#8, 0#8, 0#8, 0#8] = .ok (.hostRead 0#32) [] ∧
    decode .label 0xA5#8 [0xA0#8] = .ok .tmrTick [] := by decide

/-- The three classes of a header, and the lowest and the highest unused label. -/
theorem witness_HeaderAndLabelClasses :
    (0x00#8 : Byte) ≠ 0xA5#8 ∧ (0xA5#8 : Byte) = 0xA5#8 ∧ (0x00#8 : Byte) = 0#8 ∧ (0x01#8 : Byte) ≠ 0#8 ∧
    (0x00#8 : Byte) ∉ [0x01#8, 0x02#8, 0x10#8, 0x11#8, 0x20#8, 0x30#8, 0x31#8, 0x40#8, 0x50#8, 0x80#8, 0x81#8, 0x90#8, 0x91#8, 0xA0#8] ∧
    (0xFF#8 : Byte) ∉ [0x01#8, 0x02#8, 0x10#8, 0x11#8, 0x20#8, 0x30#8, 0x31#8, 0x40#8, 0x50#8, 0x80#8, 0x81#8, 0x90#8, 0x91#8, 0xA0#8] ∧
    ({ r0 with agenda := [.pick (.agent 0xFF#8)] } : State).configured = true := by decide

theorem witness_EncodeLaysOutFrame :
    ([] : List Byte).length = (0#8 : Byte).toNat ∧ (List.replicate 255 (7#8 : Byte)).length = (255#8 : Byte).toNat := by decide

/-- Byte 0, byte 1, the byte after the size, and the last byte of a frame. -/
theorem witness_OneChangedByteIsRejected : ∀ j ∈ [0, 1, 4, 9],
    j < 8 + (2#8 : Byte).toNat ∧ (encodeFrame 0xA5#8 ⟨1#8, 0#8, 2#8, [0x41#8, 0x42#8]⟩)[j]? ≠ some 0xFF#8 := by decide

theorem witness_VerdictsConsume :
    decodeStream 0xA5#8 [0x00#8, 0x11#8, 0x22#8, 0x33#8] = some (.invalidStart, 4) ∧
    decodeStream 0xA5#8 [0xA5#8, 0x01#8, 0x01#8, 0x00#8, 0x42#8, 0xEA#8, 0x07#8, 0x6A#8] = some (.checksumMismatch, 8) ∧
    decodeStream 0xA5#8 [0xA5#8, 0x00#8, 0x01#8, 0x00#8, 0x42#8, 0xEA#8, 0x07#8, 0x6A#8] = some (.frame ⟨0#8, 1#8, 0#8, []⟩, 8) := by
  decide

/-- A bad start with a byte after it, a checksum that fails, and a frame with bytes after it. -/
theorem witness_SerialDecoderAgreesWithPure :
    let good : List Byte := [0xA5#8, 0x00#8, 0x01#8, 0x00#8, 0x42#8, 0xEA#8, 0x07#8, 0x6A#8]
    let bad : List Byte := [0xA5#8, 0x01#8, 0x01#8, 0x00#8, 0x42#8, 0xEA#8, 0x07#8, 0x6A#8]
    r0.rxPhase = .hdr ∧ r0.rxBuf = [] ∧
    decodeStream r0.cfgStart [0x00#8, 0x11#8, 0x22#8, 0x33#8, 0x44#8] = some (.invalidStart, 4) ∧
    ({ r0 with rxLine := [0x00#8, 0x11#8, 0x22#8, 0x33#8, 0x44#8] } : State).rxLine =
      [0x00#8, 0x11#8, 0x22#8, 0x33#8, 0x44#8].take 4 ++ [0x44#8] ∧
    decodeStream r0.cfgStart bad = some (.checksumMismatch, 8) ∧
    ({ r0 with rxLine := bad } : State).rxLine = bad.take 8 ++ [] ∧
    decodeStream r0.cfgStart good = some (.frame ⟨0#8, 1#8, 0#8, []⟩, 8) ∧
    ({ r0 with rxLine := good ++ [0xA5#8] } : State).rxLine = good.take 8 ++ [0xA5#8] := by decide

theorem witness_SerialDecoderWaits :
    decodeStream r0.cfgStart [] = none ∧ decodeStream r0.cfgStart [0x00#8, 0x11#8, 0x22#8] = none ∧
    decodeStream r0.cfgStart [0xA5#8, 0x00#8, 0x01#8, 0x00#8, 0x42#8, 0xEA#8, 0x07#8] = none := by decide

theorem witness_SeqNextReturnsAndAdvances :
    ({ r0 with seq := 255#8 } : State).seq = 255#8 ∧ ({ r0 with seq := 254#8 } : State).seq ≠ 255#8 ∧ r0.seq ≠ 0#8 := by decide

theorem witness_SequenceCycles : (1#8 : Byte) ≠ 0#8 ∧ (255#8 : Byte) ≠ 0#8 := by decide

theorem witness_SequenceMovesOnlyWithNewFrames :
    (∃ t, step { r0 with agenda := [.pick (.serve 0)], hostPort := [⟨0, [0x01#8, 0#8, 0#8, 0#8, 1#8, 0x78#8]⟩] } = .next t ∧
      t.seq = 2#8) ∧
    (∃ t, step { r0 with seq := 9#8, agenda := [.env .reset] } = .next t) ∧
    ({ r0 with agenda := [.pick (.serve 0)] } : State).nextResets = false ∧
    ({ r0 with seq := 9#8, agenda := [.env .reset] } : State).nextResets = true := by
  exact ⟨⟨_, rfl, rfl⟩, ⟨_, rfl⟩, rfl, rfl⟩

/-- A reset while TXD sends, and one while it is idle. -/
theorem witness_ResetWhileRunning :
    ({ withTx [0x6A#8] r0 with agenda := [.env .reset] } : State).configured = true ∧
    ({ withTx [0x6A#8] r0 with agenda := [.env .reset] } : State).txBusy = true ∧
    ({ r0 with agenda := [.env .reset] } : State).configured = true ∧ ({ r0 with agenda := [.env .reset] } : State).txBusy = false := by
  decide

/-- MTU 1 and 255 are legal, 0 and 256 are not, and RETRY 0 is not. -/
theorem witness_ConfigurationRefusedOrLatched :
    ({ r0 with agenda := [.env (.config 1 1 0x00#8)] } : State).configured = true ∧
    legalConfig 1 1 = true ∧ legalConfig 255 1 = true ∧ legalConfig 0 1 = false ∧ legalConfig 256 1 = false ∧
    legalConfig 200 0 = false ∧ ({ r0 with cfgMtu := 0#8 } : State).cfgMtu = 0#8 ∧ ({ r0 with cfgRetry := 0 } : State).cfgRetry = 0 := by
  decide

theorem witness_ConfigurationIsConstant :
    ∃ t, step { r0 with agenda := [.pick (.agent 0xA0#8)] } = .next t ∧
      ({ r0 with agenda := [.pick (.agent 0xA0#8)] } : State).nextResets = false := ⟨_, rfl, rfl⟩

theorem witness_HostWriteAppendsAndAdvances :
    (r0.ctl = .loop ∧ r0.ob ++ [] = []) ∧ ((withPend 1#8 [0x78#8] r0).ctl = .loop ∧ (withPend 1#8 [0x78#8] r0).pendV = true) ∧
    (r0.pendV = false ∧ r0.ob ++ [0x78#8] ≠ []) ∧ [(0x78#8 : Byte)].length < 2 ^ 32 := by decide

theorem witness_HostReadDrainsFront : ({ r0 with ib := [0x41#8] } : State).ctl = .loop := by decide

theorem witness_ReservedOpcodeRefused :
    (0x00#8 : Byte) ≠ 0x01#8 ∧ (0x00#8 : Byte) ≠ 0x02#8 ∧ (0x03#8 : Byte) ≠ 0x02#8 ∧
    ({ r0 with agenda := [.pick (.serve 0)], hostPort := [⟨0, [0x03#8]⟩] } : State).configured = true := by decide

theorem witness_StepsWaitWhereNotEnabled :
    ({ r0 with ctl := .advWait } : State).ctl ≠ .loop ∧ r0.rxPhase ≠ .hold ∧ r0.tickP = false ∧ r0.ctl ≠ .advWait ∧
    (withTx [1#8] { r0 with ctl := .advWait }).txBusy = true ∧ (withTx [1#8] { r0 with ctl := .ackWait }).txBusy = true ∧
    r0.ctl ≠ .resendTry ∧ r0.ctl ≠ .ackWait ∧ (withHeld ⟨0#8, 1#8, 0#8, []⟩ r0).rxPhase = .hold ∧ r0.rxLine = [] ∧
    r0.txBusy = false ∧ r0.txQ = [] ∧
    decodeHost [0x02#8, 0#8, 0#8, 0#8, 1#8] = .ok (.hostRead 1#32) [] ∧ (Instr.hostRead 1#32).label ≠ none ∧
    ({ r0 with
      ctl := .ackWait, agenda := [.pick (.serve 0)],
      hostPort := [⟨0, [0x02#8, 0#8, 0#8, 0#8, 1#8]⟩] } : State).configured = true := by decide

/-- The matching acknowledgment with an empty and with a full buffer, another id, no pending frame, and id 0. -/
theorem witness_AckClearsPendingAndAdvances :
    let s := withHeld ⟨0#8, 1#8, 0#8, []⟩ (withPend 1#8 [0x78#8] r0)
    (s.ctl = .loop ∧ s.rxPhase = .hold ∧ s.pendV = true ∧ s.pendId = 1#8 ∧ s.ob = []) ∧
    (({ s with ob := [1#8] } : State).ob ≠ []) ∧ s.pendId ≠ 2#8 ∧ (withHeld ⟨0#8, 1#8, 0#8, []⟩ r0).pendV = false := by
  decide
theorem witness_AckClearsPendingAndAdvances_zero :
    (withHeld ⟨0#8, 0#8, 0#8, []⟩ (withPend 1#8 [0x78#8] r0)).PendOk := fun _ => by decide

theorem witness_DataFrameAcceptedOnce :
    let s := withHeld ⟨1#8, 0#8, 1#8, [0x43#8]⟩ { r0 with lastV := true, lastId := 1#8 }
    (s.ctl = .loop ∧ s.rxPhase = .hold ∧ s.rxHold = ⟨1#8, 0#8, 1#8, [0x43#8]⟩ ∧ s.lastV = true ∧ s.lastId = 1#8) ∧
    ({ s with lastId := 2#8 } : State).lastId ≠ 1#8 ∧ ({ s with lastV := false } : State).lastV = false := by decide

theorem witness_AckHandoffSendsAck :
    ({ r0 with ctl := .ackWait } : State).ctl = .ackWait ∧ ({ r0 with ctl := .ackWait } : State).txBusy = false ∧
    (withTx [1#8] { r0 with ctl := .ackWait }).txBusy = true := by decide

theorem witness_TickAdvancesThenResends :
    ({ r0 with tickP := true } : State).ctl = .loop ∧ ({ r0 with tickP := true } : State).tickP = true ∧
    ({ r0 with tickP := true } : State).ob = [] ∧ (withPend 1#8 [0x78#8] { r0 with tickP := true }).pendV = true ∧
    ({ r0 with tickP := true, ob := [1#8] } : State).pendV = false ∧ ({ r0 with tickP := true, ob := [1#8] } : State).ob ≠ [] := by
  decide
theorem witness_TickAdvancesThenResends_idle : ({ r0 with tickP := true } : State).IdleOk := fun _ => rfl

theorem witness_ResendTryHandsOverOrSkips :
    let s := withPend 1#8 [0x78#8] { r0 with ctl := .resendTry }
    (s.ctl = .resendTry ∧ s.pendV = true ∧ s.txBusy = false ∧ s.pendData.length = s.pendSize.toNat) ∧
    (withTx [1#8] s).txBusy = true ∧ ({ r0 with ctl := .resendTry } : State).pendV = false := by decide

theorem witness_AdvHandoffSendsNewFrame :
    let s := withPend 1#8 [0x78#8] { r0 with ctl := .advWait }
    (s.ctl = .advWait ∧ s.pendData.length = s.pendSize.toNat ∧ s.txBusy = false ∧ s.ret = false) ∧
    ({ s with ret := true } : State).ret = true := by decide

theorem witness_TickAbandonsHandoff :
    let s := withPend 1#8 [0x78#8] { r0 with ctl := .advWait, tickP := true }
    (s.ctl = .advWait ∧ s.tickP = true ∧ s.ret = false ∧ s.txBusy = false ∧ s.pendData.length = s.pendSize.toNat) ∧
    ({ s with ret := true } : State).ret = true := by decide

theorem witness_UnencodablePendingFaults :
    let s : State := { r0 with pendV := true, pendSize := 2#8, pendData := [1#8] }
    s.pendData.length ≠ s.pendSize.toNat ∧ s.txBusy = false ∧ ({ s with ctl := .advWait } : State).ctl = .advWait ∧
    ({ s with ctl := .resendTry } : State).ctl = .resendTry ∧ s.pendV = true := by decide

theorem witness_BadStartDiscardsHeader :
    let s : State := { r0 with rxBuf := [0x00#8, 0xA5#8, 0x22#8], rxLine := [0x33#8] }
    s.rxPhase = .hdr ∧ s.rxBuf = [0x00#8, 0xA5#8, 0x22#8] ∧ s.rxLine = [0x33#8] ∧ (0x00#8 : Byte) ≠ s.cfgStart := by decide

/-- The third and the fourth header byte, a payload byte before the last, and the last one. -/
theorem witness_HeaderAndPayloadCollected :
    ({ r0 with rxBuf := [0xA5#8, 1#8], rxLine := [0#8] } : State).rxBuf.length < 3 ∧
    ({ r0 with rxBuf := [0xA5#8, 1#8, 0#8], rxLine := [0#8] } : State).rxBuf = [r0.cfgStart, 1#8, 0#8] ∧ (255#8 : Byte) ≠ 0#8 ∧
    ({ r0 with rxPhase := .pay, rxBuf := [0xA5#8, 1#8, 0#8, 2#8], rxLine := [0x68#8] } : State).rxBuf =
      [0xA5#8, 1#8, 0#8, 2#8] ++ [] ∧ ([] : List Byte).length + 1 < (2#8 : Byte).toNat ∧
    ({ r0 with rxPhase := .pay, rxBuf := [0xA5#8, 1#8, 0#8, 2#8, 0x68#8], rxLine := [0x69#8] } : State).rxBuf =
      [0xA5#8, 1#8, 0#8, 2#8] ++ [0x68#8] ∧ [(0x68#8 : Byte)].length + 1 = (2#8 : Byte).toNat := by decide

/-- The third trailer byte, and the fourth of a good and of a bad trailer. -/
theorem witness_TrailerDecidesVerdict :
    let s : State := { r0 with rxPhase := .trl, rxBuf := [0xA5#8, 0#8, 1#8, 0#8, 0x42#8, 0xEA#8, 0x07#8], rxLine := [0x6A#8] }
    s.rxPhase = .trl ∧ ([] : List Byte).length = (0#8 : Byte).toNat ∧
    s.rxBuf = [0xA5#8, 0#8, 1#8, 0#8] ++ [] ++ [0x42#8, 0xEA#8, 0x07#8] ∧ [0x42#8, (0xEA#8 : Byte)].length < 3 ∧
    crc32 [0xA5#8, 0#8, 1#8, 0#8] = fromBe32 0x42#8 0xEA#8 0x07#8 0x6A#8 ∧
    crc32 [0xA5#8, 0#8, 1#8, 0#8] ≠ fromBe32 0x42#8 0xEA#8 0x07#8 0x6B#8 := by decide

theorem witness_ReceiveFailureAbortsUnlessHolding :
    ({ r0 with rxBuf := [0xA5#8] } : State).rxPhase ≠ .hold ∧
    (withHeld ⟨0#8, 1#8, 0#8, []⟩ { r0 with rxLine := [1#8] }).rxPhase = .hold := by decide

theorem witness_TransmitEmitsOrDrops :
    (withTx [1#8] r0).txBusy = true ∧ (withTx [1#8] r0).txQ = [1#8] ∧ (withTx [1#8, 2#8] r0).txQ = 1#8 :: [2#8] ∧
    r0.txBusy = false := by decide

theorem witness_TimerTickLatches : ({ r0 with tickP := true } : State).tickP = true := by decide

theorem witness_ReceiveStepsFrame : ∃ t, exec .rxByte { r0 with rxLine := [1#8] } = .next t ∧ t.rxBuf = [1#8] := ⟨_, rfl, rfl⟩

theorem witness_TransmitAndTimerStepsFrame : ∃ t, exec .txByte (withTx [1#8] r0) = .next t ∧ t.obsTx = [1#8] := ⟨_, rfl, rfl⟩

theorem witness_FsmStepsFrame : ∃ t, exec .tick { r0 with tickP := true } = .next t ∧ t.ctl = .resendTry := ⟨_, rfl, rfl⟩

theorem witness_EnvironmentLeavesBlock :
    ({ r0 with agenda := [.env (.offer [1#8])] } : State).nextAct = .env (.offer [1#8]) ∧
    ({ r0 with agenda := [.env (.offer [1#8])] } : State).nextResets = false ∧
    ∃ t, step { r0 with agenda := [.env (.offer [1#8])] } = .next t ∧ t.rxLine = [1#8] := ⟨rfl, rfl, _, rfl, rfl⟩

/-- A label; a command at the port by its place and by its label, alone and with a byte after it, in LOOP and outside; a held frame by
`take` and by its label; labels that name nothing there; and the two kinds of an offered byte. -/
theorem witness_StepRunsDecodedInstruction :
    let read : List Byte := [0x02#8, 0#8, 0#8, 0#8, 1#8]
    let port : State := { r0 with agenda := [.pick (.agent 0x02#8)], hostPort := [⟨0, read⟩] }
    let held : State := withHeld ⟨0#8, 1#8, 0#8, []⟩ { r0 with agenda := [.pick (.agent 0x10#8)] }
    let data : State := withHeld ⟨1#8, 0#8, 1#8, [0xA5#8]⟩ { r0 with agenda := [.pick .take] }
    (({ r0 with agenda := [.pick (.agent 0x20#8)] } : State).configured = true ∧ decode .label r0.cfgStart [0x20#8] = .ok .tick [] ∧
      Instr.tick ≠ .rxByte) ∧
    (port.configured = true ∧ port.ctl = .loop ∧ port.hostPort[0]? = some ⟨0, read⟩ ∧
      decode .host port.cfgStart read = .ok (.hostRead 1#32) [] ∧ (Instr.hostRead 1#32).label = some 0x02#8 ∧
      decode .host port.cfgStart (read ++ [0x02#8]) = .ok (.hostRead 1#32) [0x02#8] ∧
      ({ port with ctl := .advWait } : State).ctl ≠ .loop) ∧
    (held.configured = true ∧ held.rxPhase = .hold ∧ held.rxHold.wf = true ∧ (Instr.frameAck 1#8 0#8 []).label = some 0x10#8 ∧
      encodeFrame held.cfgStart held.rxHold = [0xA5#8, 0x00#8, 0x01#8, 0x00#8, 0x42#8, 0xEA#8, 0x07#8, 0x6A#8] ∧
      decode .wire held.cfgStart [0xA5#8, 0x00#8, 0x01#8, 0x00#8, 0x42#8, 0xEA#8, 0x07#8, 0x6A#8] = .ok (.frameAck 1#8 0#8 []) []) ∧
    (data.configured = true ∧ data.rxPhase = .hold ∧ data.rxHold.wf = true ∧
      encodeFrame data.cfgStart data.rxHold = [0xA5#8, 0x01#8, 0x00#8, 0x01#8, 0xA5#8, 0x79#8, 0xFE#8, 0xE6#8, 0xB8#8] ∧
      decode .wire data.cfgStart [0xA5#8, 0x01#8, 0x00#8, 0x01#8, 0xA5#8, 0x79#8, 0xFE#8, 0xE6#8, 0xB8#8] =
        .ok (.frameData 1#8 0#8 1#8 [0xA5#8]) []) ∧
    ((Instr.hostRead 1#32).label ≠ some 0x01#8 ∧ r0.hostPort.head? = none ∧ r0.rxPhase ≠ .hold ∧
      held.rxHold.toInstr.label ≠ some 0x11#8 ∧ data.rxHold.toInstr.label ≠ some 0x10#8) ∧
    ((0x00#8 : Byte) ≠ r0.cfgStart ∧ ({ r0 with rxBuf := [0x00#8, 0#8, 0#8], rxLine := [1#8] } : State).rxPhase = .hdr ∧
      ({ r0 with rxBuf := [0xA5#8, 0#8, 0#8], rxLine := [1#8] } : State).rxBuf.getD 0 0#8 = r0.cfgStart) := by decide

/-- The invariants hold in "R0", with a frame waiting for TXD, with one sent, and in ACK_WAIT while TXD is busy. -/
theorem inv_r0 : r0.Inv := by
  constructor <;> simp [State.ConfigOk, State.PendOk, State.AdvWaitOk, State.IdleOk, State.IdsOk, State.RxOk, State.TxOk, r0,
    State.reset]

theorem inv_advWait : ({ withPend 1#8 [0x78#8] r0 with ctl := .advWait } : State).Inv := by
  constructor <;> simp [State.ConfigOk, State.PendOk, State.AdvWaitOk, State.IdleOk, State.IdsOk, State.RxOk, State.TxOk, r0,
    State.reset, withPend]

theorem inv_withAgenda {s : State} (h : s.Inv) (a : List Act) : ({ s with agenda := a } : State).Inv :=
  ⟨h.config, h.seq, h.pend, h.advWait, h.idle, h.ids, h.rx, h.tx⟩

/-- A state for each clause: TXD; RXD with a bad start and without; a held frame; a host operation after an incomplete one, alone and
with a byte after it; a tick; the three ways in ADV_WAIT; RESEND_TRY; ACK_WAIT; and no step at all. -/
def eagerStates : List State :=
  [withTx [1#8] r0, { r0 with rxBuf := [0x00#8, 1#8, 2#8], rxLine := [3#8] }, { r0 with rxLine := [0xA5#8] },
   withHeld ⟨0#8, 1#8, 0#8, []⟩ r0, { r0 with hostPort := [⟨0, [0x01#8]⟩, ⟨1, [0x02#8, 0#8, 0#8, 0#8, 1#8]⟩], tickP := true },
   { r0 with hostPort := [⟨0, [0x02#8, 0#8, 0#8, 0#8, 1#8, 0x02#8]⟩] }, { r0 with hostPort := [⟨0, [0x03#8]⟩] },
   { r0 with tickP := true }, { withPend 1#8 [0x78#8] r0 with ctl := .advWait, tickP := true },
   { withTx [1#8] (withPend 1#8 [0x78#8] r0) with ctl := .advWait, tickP := true },
   { r0 with ctl := .resendTry }, { r0 with ctl := .ackWait, ackId := 1#8 }, r0]

theorem witness_EagerScheduleTakesEnabledSteps :
    (∀ s ∈ eagerStates, ({ s with agenda := [.settle] } : State).Inv) ∧
    eagerStates.map eagerPick =
      [some (.agent 0x90#8), some (.agent 0x80#8), some (.agent 0x80#8), some .take, some (.serve 1), some (.serve 0), some (.serve 0),
       some (.agent 0x20#8), some (.agent 0x30#8), some (.agent 0x90#8), some (.agent 0x40#8), some (.agent 0x50#8), none] := by
  refine ⟨?_, by decide⟩
  simp only [eagerStates, List.forall_mem_cons, List.not_mem_nil, false_imp_iff, implies_true, and_true]
  refine ⟨?_, ?_, ?_, ?_, ?_, ?_, ?_, ?_, ?_, ?_, ?_, ?_, ?_⟩ <;> constructor <;>
    simp [State.ConfigOk, State.PendOk, State.AdvWaitOk, State.IdleOk, State.IdsOk, State.RxOk, State.TxOk, r0, State.reset, withPend,
      withTx, withHeld]

theorem witness_TickEndsAdvWait :
    ({ withPend 1#8 [0x78#8] r0 with ctl := .advWait } : State).Inv ∧
    ({ withPend 1#8 [0x78#8] r0 with ctl := .advWait } : State).ctl = .advWait ∧ ({ r0 with ctl := .resendTry } : State).Inv := by
  refine ⟨inv_advWait, rfl, ?_⟩
  constructor <;> simp [State.ConfigOk, State.PendOk, State.AdvWaitOk, State.IdleOk, State.IdsOk, State.RxOk, State.TxOk, r0,
    State.reset]

theorem witness_AckWaitBlocksWhileBusy :
    (withTx [1#8] { r0 with ctl := .ackWait, tickP := true }).ctl = .ackWait ∧
    (withTx [1#8] { r0 with ctl := .ackWait, tickP := true }).txBusy = true ∧
    ∃ t, exec .tick (withTx [1#8] { r0 with ctl := .ackWait, tickP := true }) = .next t := ⟨rfl, rfl, _, rfl⟩

theorem witness_StepKeepsInvariant :
    ({ withPend 1#8 [0x78#8] r0 with ctl := .advWait, agenda := [.pick (.agent 0x30#8)] } : State).Inv ∧
    ∃ t, step { withPend 1#8 [0x78#8] r0 with ctl := .advWait, agenda := [.pick (.agent 0x30#8)] } = .next t ∧ t.txBusy = true :=
  ⟨inv_withAgenda inv_advWait _, _, rfl, rfl⟩

/-- A step that goes on, and each of the three refusals. -/
theorem witness_InvariantStatesAreSafe :
    r0.Inv ∧ (∃ t, step { r0 with agenda := [.pick .take] } = .next t) ∧
    step { r0 with agenda := [.pick (.serve 0)], hostPort := [⟨0, [0x03#8]⟩] } = .refused (.reservedHostOpcode 0x03#8) ∧
    step { r0 with agenda := [.env (.config 256 1 0xA5#8)] } = .refused (.illegalConfiguration 256 1) ∧
    step { r0 with agenda := [.pick (.agent 0xFF#8)] } = .refused (.unusedStepLabel 0xFF#8) :=
  ⟨inv_r0, ⟨_, rfl⟩, rfl, rfl, rfl⟩

/-- The pending frame stays while the FSM takes another acknowledgment, and goes when it takes its own. -/
theorem witness_PendingFrameNeverAbandoned :
    let s := withPend 1#8 [0x78#8] { r0 with agenda := [.pick .take] }
    s.nextResets = false ∧ s.pendV = true ∧
    (∃ t, step (withHeld ⟨0#8, 2#8, 0#8, []⟩ s) = .next t ∧ t.pendV = true) ∧
    (∃ t, step (withHeld ⟨0#8, 1#8, 0#8, []⟩ s) = .next t ∧ t.pendV = false) := ⟨rfl, rfl, ⟨_, rfl, rfl⟩, ⟨_, rfl, rfl⟩⟩

theorem witness_TransmitStreamIsWholeFrames :
    ({ withPend 1#8 [0x78#8] r0 with ctl := .advWait, agenda := [.pick (.agent 0x30#8)] } : State).Inv ∧
    ({ withPend 1#8 [0x78#8] r0 with ctl := .advWait, agenda := [.pick (.agent 0x30#8)] } : State).nextResets = false ∧
    ∃ t, step { withPend 1#8 [0x78#8] r0 with ctl := .advWait, agenda := [.pick (.agent 0x30#8)] } = .next t ∧
      t.transmitted ≠ [] := ⟨inv_withAgenda inv_advWait _, rfl, _, rfl, by decide⟩

theorem witness_InboundStreamInOrder :
    ({ withHeld ⟨1#8, 0#8, 1#8, [0x43#8]⟩ r0 with agenda := [.pick .take] } : State).nextResets = false ∧
    ∃ t, step { withHeld ⟨1#8, 0#8, 1#8, [0x43#8]⟩ r0 with agenda := [.pick .take] } = .next t ∧ t.delivered = [0x43#8] :=
  ⟨rfl, _, rfl, by decide⟩

theorem witness_OutboundStreamInOrder :
    (∃ t, exec (.hostWrite [0x78#8]) r0 = .next t ∧ t.unacknowledged = [0x78#8]) ∧
    (∃ t, exec (.frameAck 1#8 0#8 []) (withHeld ⟨0#8, 1#8, 0#8, []⟩ (withPend 1#8 [0x78#8] r0)) = .next t ∧
      t.unacknowledged = []) := ⟨⟨_, rfl, by decide⟩, ⟨_, rfl, by decide⟩⟩

theorem witness_ObservationOnlyGrows : ∃ t, step { r0 with agenda := [.pick (.agent 0x40#8)], ctl := .resendTry } = .next t ∧
    t.history = [0x40#8] := ⟨_, rfl, rfl⟩

/-- Two different states that agree where the spec says anything. -/
theorem witness_UnspecifiedElementsNeverRead :
    let t : State := { r0 with
      pendId := 7#8, pendSize := 9#8, pendData := [1#8], lastId := 3#8, rxHold := ⟨1#8, 2#8, 0#8, []⟩, ackId := 5#8, tmrPhase := 8 }
    r0.specified = t.specified ∧ r0 ≠ t := by
  refine ⟨rfl, fun h => ?_⟩
  exact absurd (congrArg State.pendId h) (by decide)
theorem witness_UnspecifiedElementsNeverRead_advWait : r0.AdvWaitOk := inv_r0.advWait

/-- Five bytes at MTU 2: the third frame has the last one. -/
theorem witness_WriteIsSegmentedByMtu :
    let s : State := { r0 with cfgMtu := 2#8 }
    let data : List Byte := [1#8, 2#8, 3#8, 4#8, 5#8]
    s.Inv ∧ s.ctl = .loop ∧ s.txBusy = false ∧ s.pendV = false ∧ data ≠ [] ∧ 2 * s.cfgMtu.toNat < data.length ∧
    (data.length + s.cfgMtu.toNat - 1) / s.cfgMtu.toNat = 3 := by
  refine ⟨?_, by decide⟩
  constructor <;> simp [State.ConfigOk, State.PendOk, State.AdvWaitOk, State.IdleOk, State.IdsOk, State.RxOk, State.TxOk, r0,
    State.reset]

/-- Both channels hold as much as they can. -/
def stuckEnd : State := withHeld ⟨1#8, 0#8, 0#8, []⟩ (withTx [1#8] { r0 with ctl := .ackWait, rxLine := [1#8] })

theorem witness_FullChannelsDeadlock :
    let l : Link := { a := stuckEnd, b := stuckEnd, cap := some 1, agenda := [.endpoint .a (.pick (.agent 0x90#8))] }
    1 ≤ l.a.rxLine.length ∧ l.a.ctl = .ackWait ∧ l.a.txBusy = true ∧ l.a.rxPhase = .hold ∧
    (Pick.agent 0x90#8) ≠ .agent 0x91#8 ∧ ∃ m, Link.step l = .next m := ⟨by decide, rfl, rfl, rfl, by decide, _, rfl⟩

/-- A byte from A to B, and one from B to A. -/
theorem witness_LinkCarriesEmittedBytes :
    (∃ m, Link.step { a := withTx [1#8] r0, b := r0, cap := none, agenda := [.endpoint .a (.pick (.agent 0x90#8))] } = .next m ∧
      m.b.rxLine = [1#8]) ∧
    (∃ m, Link.step { a := r0, b := withTx [2#8] r0, cap := some 1, agenda := [.endpoint .b (.pick (.agent 0x90#8))] } = .next m ∧
      m.a.rxLine = [2#8]) := ⟨⟨_, rfl, rfl⟩, ⟨_, rfl, rfl⟩⟩

/-! ### A joint run: what the statements over runs assume, met together -/

/-- The link of two blocks in "R0", just reset together. -/
def demo0 : Link := ({ a := r0, b := r0, cap := none, agenda := [] } : Link).fresh

def onEnd (x : Side) (p : Pick) : LinkAct := .endpoint x (.pick p)

/-- Host agent 7 of end B issues a HOST_READ of one byte. -/
def pollB : LinkAct := .endpoint .b (.env (.issue 7 [0x02#8, 0#8, 0#8, 0#8, 1#8]))

/-- A's host writes one byte; it is sent, received, acknowledged, and read by the driver of B's agent 7, which then calls again. -/
def demoStart : List LinkAct :=
  [.endpoint .a (.env (.issue 0 [0x01#8, 0#8, 0#8, 0#8, 1#8, 0x78#8])), onEnd .a (.serve 0), onEnd .a (.agent 0x30#8)] ++
  List.replicate 9 (onEnd .a (.agent 0x90#8)) ++ List.replicate 9 (onEnd .b (.agent 0x80#8)) ++
  [onEnd .b .take, onEnd .b (.agent 0x50#8)] ++ List.replicate 8 (onEnd .b (.agent 0x90#8)) ++
  List.replicate 8 (onEnd .a (.agent 0x80#8)) ++ [onEnd .a .take, pollB, onEnd .b (.serve 0), onEnd .b .take, onEnd .b .take]

/-- Then for ever: a tick at each end, which finds nothing to resend, and a poll that finds nothing to read. -/
def demoCycle : Nat → LinkAct
  | 0 => onEnd .a (.agent 0xA0#8)
  | 1 => onEnd .a (.agent 0x20#8)
  | 2 => onEnd .a (.agent 0x40#8)
  | 3 => onEnd .b (.agent 0xA0#8)
  | 4 => onEnd .b (.agent 0x20#8)
  | 5 => onEnd .b (.agent 0x40#8)
  | 6 => pollB
  | 7 => onEnd .b (.serve 0)
  | _ => onEnd .b .take

def demoActs (n : Nat) : LinkAct := if n < 44 then demoStart.getD n pollB else demoCycle ((n - 44) % 10)

/-- The run. -/
def demo : Nat → Link
  | 0     => demo0
  | n + 1 =>
    match Link.act (demo n) (demoActs n) with
    | .next m    => m
    | .fault _   => demo n
    | .refused _ => demo n

/-- The driver of B's agent 7: a `Read` of one byte, and again and again. -/
def demoDriver (n : Nat) : Driver :=
  if n ≤ 40 then .issuing (.read 1#32)
  else if n ≤ 42 then .waiting (.read 1#32)
  else if n = 43 then .readDone [0x78#8]
  else if (n - 44) % 10 ≤ 6 then .issuing (.read 1#32)
  else if (n - 44) % 10 ≤ 8 then .waiting (.read 1#32)
  else .backoff 1#32

theorem demo_succ {n : Nat} {m : Link} (h : Link.act (demo n) (demoActs n) = .next m) : demo (n + 1) = m := by
  simp only [demo, h]

/-- An end with nothing to do. -/
def idle (s : State) : Bool :=
  s.configured && s.ctl == .loop && !s.tickP && !s.pendV && s.ob.isEmpty && s.ib.isEmpty && s.rxPhase == .hdr && s.rxLine.isEmpty && !s.txBusy &&
    s.hostPort.isEmpty && s.agenda.isEmpty

structure Idle (s : State) : Prop where
  cfg : s.configured = true
  ctl : s.ctl = .loop
  tickP : s.tickP = false
  pendV : s.pendV = false
  ob : s.ob = []
  ib : s.ib = []
  rxPhase : s.rxPhase = .hdr
  rxLine : s.rxLine = []
  txBusy : s.txBusy = false
  hostPort : s.hostPort = []
  agenda : s.agenda = []

theorem idle_spec {s : State} (h : idle s = true) : Idle s := by
  simp only [idle, Bool.and_eq_true, Bool.not_eq_true', beq_iff_eq, List.isEmpty_iff] at h
  obtain ⟨⟨⟨⟨⟨⟨⟨⟨⟨⟨a, b⟩, c⟩, d⟩, e⟩, f⟩, g⟩, i⟩, j⟩, k⟩, m⟩ := h
  exact ⟨a, b, c, d, e, f, g, i, j, k, m⟩

/-- The three steps of a tick that finds nothing to send. -/
def tick1 (s : State) : State := { s with agenda := [], tickP := true, tmrPhase := s.cfgRetry, history := s.history ++ [0xA0#8] }
def tick2 (s : State) : State := { s with agenda := [], tickP := false, ctl := .resendTry, history := s.history ++ [0x20#8] }
def tick3 (s : State) : State := { s with agenda := [], ctl := .loop, history := s.history ++ [0x40#8] }
/-- The two steps of a poll that finds nothing to read, and a step that does nothing. -/
def poll1 (s : State) : State := { s with agenda := [], hostPort := [⟨7, [0x02#8, 0#8, 0#8, 0#8, 1#8]⟩] }
def poll2 (s : State) : State :=
  { s with agenda := [], hostPort := [], hostSel := 7, replies := s.replies ++ [.read 7 []], history := s.history ++ [0x02#8] }
def pause (s : State) : State := { s with agenda := [] }

theorem step_tick1 {s : State} (hc : s.configured = true) : step { s with agenda := [.pick (.agent 0xA0#8)] } = .next (tick1 s) := by
  rw [step_label hc (i := .tmrTick) (by decide) (by decide)]; rfl

theorem step_tick2 {s : State} (hc : s.configured = true) (h1 : s.ctl = .loop) (h2 : s.tickP = true) (h3 : s.ob = []) :
    step { s with agenda := [.pick (.agent 0x20#8)] } = .next (tick2 s) := by
  rw [step_label hc (i := .tick) (by decide) (by decide)]
  simp [exec, execTick, canTick, h1, h2, advance, h3, continueTo, logStep, tick2]

theorem step_tick3 {s : State} (hc : s.configured = true) (h1 : s.ctl = .resendTry) (h2 : s.pendV = false) :
    step { s with agenda := [.pick (.agent 0x40#8)] } = .next (tick3 s) := by
  rw [step_label hc (i := .resendTry) (by decide) (by decide)]
  simp [exec, execResendTry, canResendTry, h1, willResend, h2, logStep, tick3]

theorem step_poll1 {s : State} (hc : s.configured = true) (h : s.hostPort = []) :
    step { s with agenda := [.env (.issue 7 [0x02#8, 0#8, 0#8, 0#8, 1#8])] } = .next (poll1 s) :=
  step_done hc (by simp [fetchAct, fetchEnv, h, poll1])

theorem step_poll2 {s : State} (hc : s.configured = true) (h1 : s.ctl = .loop) (h2 : s.ib = [])
    (h3 : s.hostPort = [⟨7, [0x02#8, 0#8, 0#8, 0#8, 1#8]⟩]) :
    step { s with agenda := [.pick (.serve 0)] } = .next (poll2 s) := by
  have hd : decodeHost [0x02#8, 0#8, 0#8, 0#8, 1#8] = .ok (.hostRead 1#32) [] := by decide
  rw [step_run hc (i := .hostRead 1#32) (t := grantHost 0 ⟨7, [0x02#8, 0#8, 0#8, 0#8, 1#8]⟩ [] { s with agenda := [] })
    (by simp [fetchAct, fetchPick, fetchHost, h3, hd, fsmReady, h1])]
  simp [grantHost, exec, execHostRead, h1, h2, h3, fsmReady, readCount, fifoTake, replyRead, logStep, poll2]

theorem step_pause {s : State} (hc : s.configured = true) (h : s.rxPhase = .hdr) :
    step { s with agenda := [.pick .take] } = .next (pause s) :=
  step_done hc (by simp [fetchAct, fetchPick, fetchHeld, h, pause])

theorem idle_ticked {s : State} (h : Idle s) : Idle (tick3 (tick2 (tick1 s))) :=
  ⟨h.cfg, rfl, rfl, h.pendV, h.ob, h.ib, h.rxPhase, h.rxLine, h.txBusy, h.hostPort, rfl⟩

theorem idle_polled {s : State} (h : Idle s) : Idle (pause (pause (poll2 (poll1 s)))) :=
  have e : pause (pause (poll2 (poll1 s))) =
      { s with agenda := [], hostPort := [], hostSel := 7, replies := s.replies ++ [.read 7 []], history := s.history ++ [0x02#8] } := rfl
  e ▸ ⟨h.cfg, h.ctl, h.tickP, h.pendV, h.ob, h.ib, h.rxPhase, h.rxLine, h.txBusy, rfl, rfl⟩

/-- The places of one round of the cycle, from two idle ends. -/
def roundAt (a b : State) : Nat → State × State
  | 0 => (a, b)
  | 1 => (tick1 a, b)
  | 2 => (tick2 (tick1 a), b)
  | 3 => (tick3 (tick2 (tick1 a)), b)
  | 4 => (tick3 (tick2 (tick1 a)), tick1 b)
  | 5 => (tick3 (tick2 (tick1 a)), tick2 (tick1 b))
  | 6 => (tick3 (tick2 (tick1 a)), tick3 (tick2 (tick1 b)))
  | 7 => (tick3 (tick2 (tick1 a)), poll1 (tick3 (tick2 (tick1 b))))
  | 8 => (tick3 (tick2 (tick1 a)), poll2 (poll1 (tick3 (tick2 (tick1 b)))))
  | 9 => (tick3 (tick2 (tick1 a)), pause (poll2 (poll1 (tick3 (tick2 (tick1 b))))))
  | _ => (tick3 (tick2 (tick1 a)), pause (pause (poll2 (poll1 (tick3 (tick2 (tick1 b)))))))

theorem act_round {a b : State} (cap : Option Nat) (ag : List LinkAct) (ha : Idle a) (hb : Idle b) : ∀ j, j < 10 →
    Link.act ⟨(roundAt a b j).1, (roundAt a b j).2, cap, ag⟩ (demoCycle j) =
      .next ⟨(roundAt a b (j + 1)).1, (roundAt a b (j + 1)).2, cap, ag⟩
  | 0, _ => act_quiet_a rfl (step_tick1 ha.cfg) rfl
  | 1, _ => act_quiet_a rfl (step_tick2 (s := tick1 a) ha.cfg ha.ctl rfl ha.ob) rfl
  | 2, _ => act_quiet_a rfl (step_tick3 (s := tick2 (tick1 a)) ha.cfg rfl ha.pendV) rfl
  | 3, _ => act_quiet_b rfl (step_tick1 hb.cfg) rfl
  | 4, _ => act_quiet_b rfl (step_tick2 (s := tick1 b) hb.cfg hb.ctl rfl hb.ob) rfl
  | 5, _ => act_quiet_b rfl (step_tick3 (s := tick2 (tick1 b)) hb.cfg rfl hb.pendV) rfl
  | 6, _ => act_quiet_b rfl (step_poll1 (s := tick3 (tick2 (tick1 b))) hb.cfg hb.hostPort) rfl
  | 7, _ => act_quiet_b rfl (step_poll2 (s := poll1 (tick3 (tick2 (tick1 b)))) hb.cfg rfl hb.ib rfl) rfl
  | 8, _ => act_quiet_b rfl (step_pause (s := poll2 (poll1 (tick3 (tick2 (tick1 b))))) hb.cfg hb.rxPhase) rfl
  | 9, _ => act_quiet_b rfl (step_pause (s := pause (poll2 (poll1 (tick3 (tick2 (tick1 b)))))) hb.cfg hb.rxPhase) rfl
  | j + 10, h => absurd h (by omega)

theorem demoActs_late (k j : Nat) (hj : j < 10) : demoActs (44 + 10 * k + j) = demoCycle j := by
  simp only [demoActs, if_neg (show ¬ 44 + 10 * k + j < 44 by omega), show (44 + 10 * k + j - 44) % 10 = j by omega]

theorem demo_idle44 : idle (demo 44).a = true ∧ idle (demo 44).b = true := by decide +kernel

/-- From place 44 on the places are those of rounds that begin with two idle ends. -/
theorem demo_late (k : Nat) : ∃ a b cap ag, Idle a ∧ Idle b ∧
    ∀ j, j ≤ 10 → demo (44 + 10 * k + j) = ⟨(roundAt a b j).1, (roundAt a b j).2, cap, ag⟩ := by
  have round : ∀ k a b cap ag, Idle a → Idle b → demo (44 + 10 * k) = ⟨a, b, cap, ag⟩ → ∀ j, j ≤ 10 →
      demo (44 + 10 * k + j) = ⟨(roundAt a b j).1, (roundAt a b j).2, cap, ag⟩ := by
    intro k a b cap ag ha hb h j
    induction j with
    | zero => intro _; exact h
    | succ j ih =>
      intro hj
      exact demo_succ (n := 44 + 10 * k + j)
        (by rw [ih (by omega), demoActs_late k j (by omega)]; exact act_round cap ag ha hb j (by omega))
  have start : ∃ a b cap ag, Idle a ∧ Idle b ∧ demo (44 + 10 * k) = ⟨a, b, cap, ag⟩ := by
    induction k with
    | zero => exact ⟨_, _, _, _, idle_spec demo_idle44.1, idle_spec demo_idle44.2, rfl⟩
    | succ k ih =>
      obtain ⟨a, b, cap, ag, ha, hb, h⟩ := ih
      exact ⟨_, _, cap, ag, idle_ticked ha, idle_polled (idle_ticked hb), round k a b cap ag ha hb h 10 (by omega)⟩
  obtain ⟨a, b, cap, ag, ha, hb, h⟩ := start
  exact ⟨a, b, cap, ag, ha, hb, round k a b cap ag ha hb h⟩

/-- A place is one of the first 44, or one of a round. -/
theorem place (n : Nat) : n < 44 ∨ ∃ k j, j < 10 ∧ n = 44 + 10 * k + j := by
  by_cases h : n < 44
  · exact .inl h
  · exact .inr ⟨(n - 44) / 10, (n - 44) % 10, by omega, by omega⟩

/-- An end at a place of a round: nothing to send, nothing on the line. -/
structure Quiet (s : State) : Prop where
  pendV : s.pendV = false
  rxPhase : s.rxPhase = .hdr
  rxLine : s.rxLine = []
  txBusy : s.txBusy = false
  ctl : s.ctl = .loop ∨ s.ctl = .resendTry

theorem quiet_round {a b : State} (ha : Idle a) (hb : Idle b) (x : Side) : ∀ j, j ≤ 10 →
    Quiet (Link.endAt ⟨(roundAt a b j).1, (roundAt a b j).2, none, []⟩ x) := by
  have a0 : Quiet a := ⟨ha.pendV, ha.rxPhase, ha.rxLine, ha.txBusy, .inl ha.ctl⟩
  have b0 : Quiet b := ⟨hb.pendV, hb.rxPhase, hb.rxLine, hb.txBusy, .inl hb.ctl⟩
  have t1 : ∀ {s : State}, Quiet s → Quiet (tick1 s) := fun h => ⟨h.pendV, h.rxPhase, h.rxLine, h.txBusy, h.ctl⟩
  have t2 : ∀ {s : State}, Quiet s → Quiet (tick2 s) := fun h => ⟨h.pendV, h.rxPhase, h.rxLine, h.txBusy, .inr rfl⟩
  have t3 : ∀ {s : State}, Quiet s → Quiet (tick3 s) := fun h => ⟨h.pendV, h.rxPhase, h.rxLine, h.txBusy, .inl rfl⟩
  have p1 : ∀ {s : State}, Quiet s → Quiet (poll1 s) := fun h => ⟨h.pendV, h.rxPhase, h.rxLine, h.txBusy, h.ctl⟩
  have p2 : ∀ {s : State}, Quiet s → Quiet (poll2 s) := fun h => ⟨h.pendV, h.rxPhase, h.rxLine, h.txBusy, h.ctl⟩
  have q : ∀ {s : State}, Quiet s → Quiet (pause s) := fun h => ⟨h.pendV, h.rxPhase, h.rxLine, h.txBusy, h.ctl⟩
  intro j hj
  have hA : Quiet (roundAt a b j).1 := by
    have a3 := t3 (t2 (t1 a0))
    interval_cases j <;> first | exact a3 | exact a0 | exact t1 a0 | exact t2 (t1 a0)
  have hB : Quiet (roundAt a b j).2 := by
    have b6 := t3 (t2 (t1 b0))
    interval_cases j
    exacts [b0, b0, b0, b0, t1 b0, t2 (t1 b0), b6, p1 b6, p2 (p1 b6), q (p2 (p1 b6)), q (q (p2 (p1 b6)))]
  cases x
  · exact hA
  · exact hB

theorem quiet_late (n : Nat) (hn : 44 ≤ n) (x : Side) : Quiet ((demo n).endAt x) := by
  obtain h | ⟨k, j, hj, rfl⟩ := place n
  · omega
  · obtain ⟨a, b, cap, ag, ha, hb, h⟩ := demo_late k
    rw [h j (by omega)]
    have q := quiet_round ha hb x j (by omega)
    cases x <;> exact q

/-- What is checked of the first 44 places, one by one. -/
def early (n : Nat) (l m : Link) : Bool :=
  let a := l.a
  let b := l.b
  -- RXD holds a frame from step 20 at B and from step 38 at A
  (a.rxPhase == .hold || m.a.rxPhase != .hold || n == 38) && (b.rxPhase == .hold || m.b.rxPhase != .hold || n == 20) &&
  -- the last byte is taken at those steps
  (a.rxLine.isEmpty || n ≤ 38) && (b.rxLine.isEmpty || n ≤ 20) &&
  -- the FSM's steps
  (!FsmStep.take.enabled a || n == 39) && (!FsmStep.take.enabled b || n == 21) &&
  (!FsmStep.advHandoff.enabled a || n == 2) && !FsmStep.advHandoff.enabled b &&
  !FsmStep.advAbandon.enabled a && !FsmStep.advAbandon.enabled b &&
  !FsmStep.ackHandoff.enabled a && (!FsmStep.ackHandoff.enabled b || n == 22) &&
  -- the hosts
  (a.hostPort.isEmpty || (n == 1 && a.hostPort.all (fun q => q.agent == 0))) &&
  (b.hostPort.isEmpty || (n == 41 && b.hostPort.all (fun q => q.agent == 7)))

def goesOn : Host.Outcome Link Fault Refusal → Bool
  | .next _ => true
  | .fault _ => false
  | .refused _ => false

theorem demo_early : ∀ n < 44, early n (demo n) (demo (n + 1)) = true ∧ goesOn (Link.act (demo n) (demoActs n)) = true ∧
    (demoActs n).resets = false := by decide +kernel

theorem demo_run : IsLinkRun demoActs demo := by
  intro n
  obtain h | ⟨k, j, hj, rfl⟩ := place n
  · have ok := (demo_early n h).2.1
    cases e : Link.act (demo n) (demoActs n) with
    | next m    => rw [demo_succ e]
    | fault _   => rw [e] at ok; cases ok
    | refused _ => rw [e] at ok; cases ok
  · obtain ⟨a, b, cap, ag, ha, hb, at'⟩ := demo_late k
    have e : demo (44 + 10 * k + j + 1) = _ := at' (j + 1) (by omega)
    rw [e, at' j (by omega), demoActs_late k j hj]
    exact act_round cap ag ha hb j hj

theorem demo_connection : IsConnection demoActs demo where
  start := ⟨{ a := r0, b := r0, cap := none, agenda := [] }, rfl⟩
  run := demo_run
  noReset := by
    intro n
    obtain h | ⟨k, j, hj, rfl⟩ := place n
    · exact (demo_early n h).2.2
    · rw [demoActs_late k j hj]
      interval_cases j <;> rfl

/-- The frames that arrive: the data frame at B, and its acknowledgment at A. -/
theorem demo_receives {x : Side} {f : Frame} {n : Nat} (h : Receives (endRun demo x) f n) :
    (x = .a ∧ n = 38) ∨ (x = .b ∧ n = 20) := by
  obtain ⟨h1, h2, -⟩ := h
  have hn : n < 44 := by
    by_contra hc
    have := (quiet_late (n + 1) (by omega) x).rxPhase
    rw [endRun, this] at h2
    cases h2
  have e := (demo_early n hn).1
  simp only [early, Bool.and_eq_true, Bool.or_eq_true, beq_iff_eq, bne_iff_ne, ne_eq] at e
  cases x
  · simp_all [endRun, Link.endAt]
  · simp_all [endRun, Link.endAt]

theorem demo_sends : Sends (endRun demo .a) (demo 21).b.rxHold 2 ∧ Sends (endRun demo .b) (demo 39).a.rxHold 22 := by
  refine ⟨⟨?_, ?_, ?_⟩, ⟨?_, ?_, ?_⟩⟩ <;> simp only [endRun, Link.endAt] <;> decide +kernel

theorem demo_noCollision (x : Side) : NoCollision (endRun demo x) (endRun demo x.peer) := by
  cases x
  · refine ⟨fun _ => 2, monotone_const, fun n f h => ?_⟩
    obtain ⟨h', -⟩ | ⟨-, rfl⟩ := demo_receives h
    · cases h'
    · refine ⟨by decide, ?_⟩
      have := h.2.2
      subst this
      exact demo_sends.1
  · refine ⟨fun _ => 22, monotone_const, fun n f h => ?_⟩
    obtain ⟨-, rfl⟩ | ⟨h', -⟩ := demo_receives h
    · refine ⟨by decide, ?_⟩
      have := h.2.2
      subst this
      exact demo_sends.2
    · cases h'

/-- Two neighbouring places of a round. -/
theorem demo_pair (k j : Nat) (hj : j < 10) : ∃ a b, Idle a ∧ Idle b ∧
    endRun demo .a (44 + 10 * k + j) = (roundAt a b j).1 ∧ endRun demo .a (44 + 10 * k + j + 1) = (roundAt a b (j + 1)).1 ∧
    endRun demo .b (44 + 10 * k + j) = (roundAt a b j).2 ∧ endRun demo .b (44 + 10 * k + j + 1) = (roundAt a b (j + 1)).2 := by
  obtain ⟨a, b, cap, ag, ha, hb, at'⟩ := demo_late k
  have e : demo (44 + 10 * k + j + 1) = _ := at' (j + 1) (by omega)
  simp only [endRun, e, at' j (by omega), Link.endAt]
  exact ⟨a, b, ha, hb, rfl, rfl, rfl, rfl⟩

/-- Every round takes the ticks and the resends of both ends, and services the poll. -/
theorem demo_takes (k : Nat) :
    Takes (endRun demo .a) 0xA0#8 (44 + 10 * k + 0) ∧ Takes (endRun demo .a) 0x20#8 (44 + 10 * k + 1) ∧
    Takes (endRun demo .a) 0x40#8 (44 + 10 * k + 2) ∧ Takes (endRun demo .b) 0xA0#8 (44 + 10 * k + 3) ∧
    Takes (endRun demo .b) 0x20#8 (44 + 10 * k + 4) ∧ Takes (endRun demo .b) 0x40#8 (44 + 10 * k + 5) ∧
    (endRun demo .b (44 + 10 * k + 7 + 1)).replies = (endRun demo .b (44 + 10 * k + 7)).replies ++ [.read 7 []] := by
  refine ⟨?_, ?_, ?_, ?_, ?_, ?_, ?_⟩
  · obtain ⟨a, b, -, -, e, e', -, -⟩ := demo_pair k 0 (by omega); rw [Takes, e, e']; rfl
  · obtain ⟨a, b, -, -, e, e', -, -⟩ := demo_pair k 1 (by omega); rw [Takes, e, e']; rfl
  · obtain ⟨a, b, -, -, e, e', -, -⟩ := demo_pair k 2 (by omega); rw [Takes, e, e']; rfl
  · obtain ⟨a, b, -, -, -, -, e, e'⟩ := demo_pair k 3 (by omega); rw [Takes, e, e']; rfl
  · obtain ⟨a, b, -, -, -, -, e, e'⟩ := demo_pair k 4 (by omega); rw [Takes, e, e']; rfl
  · obtain ⟨a, b, -, -, -, -, e, e'⟩ := demo_pair k 5 (by omega); rw [Takes, e, e']; rfl
  · obtain ⟨a, b, -, -, -, -, e, e'⟩ := demo_pair k 7 (by omega); rw [e, e']; rfl

/-- The steps of the first 44 places that end what is enabled there. -/
theorem demo_ends :
    (Takes (endRun demo .a) 0x80#8 38 ∧ Takes (endRun demo .b) 0x80#8 20) ∧
    (Takes (endRun demo .a) 0x10#8 39 ∧ Takes (endRun demo .b) 0x11#8 21) ∧
    (Takes (endRun demo .a) 0x30#8 2 ∧ Takes (endRun demo .b) 0x50#8 22) ∧
    ((endRun demo .a 2).replies = (endRun demo .a 1).replies ++ [.wrote 0 [0x78#8]] ∧
      (endRun demo .b 42).replies = (endRun demo .b 41).replies ++ [.read 7 [0x78#8]]) := by
  simp only [Takes, endRun, Link.endAt]
  decide +kernel

/-- The host operations that wait in a round. -/
theorem demo_port (k j : Nat) (hj : j < 10) : (endRun demo .a (44 + 10 * k + j)).hostPort = [] ∧
    ((endRun demo .b (44 + 10 * k + j)).hostPort = [] ∨
      (j = 7 ∧ (endRun demo .b (44 + 10 * k + j)).hostPort = [⟨7, [0x02#8, 0#8, 0#8, 0#8, 1#8]⟩])) := by
  obtain ⟨a, b, ha, hb, e, -, e', -⟩ := demo_pair k j hj
  rw [e, e']
  have h := ha.hostPort
  have h' := hb.hostPort
  interval_cases j <;> simp [roundAt, tick1, tick2, tick3, poll1, poll2, pause, h, h']

/-- What an enabled step of the FSM says of its place. -/
theorem demo_enabled {x : Side} {y : FsmStep} {n : Nat} (h : y.enabled (endRun demo x n) = true) :
    y = .tick ∨ y = .resendTry ∨ (x = .a ∧ y = .service 0 ∧ n = 1) ∨ (x = .a ∧ y = .take ∧ n = 39) ∨
    (x = .a ∧ y = .advHandoff ∧ n = 2) ∨ (x = .b ∧ y = .take ∧ n = 21) ∨ (x = .b ∧ y = .ackHandoff ∧ n = 22) ∨
    (x = .b ∧ y = .service 7 ∧ (n = 41 ∨ ∃ k, n = 44 + 10 * k + 7)) := by
  obtain hn | ⟨k, j, hj, rfl⟩ := place n
  · have e := (demo_early n hn).1
    simp only [early, Bool.and_eq_true, Bool.or_eq_true, beq_iff_eq, bne_iff_ne, ne_eq, Bool.not_eq_true', List.isEmpty_iff,
      List.all_eq_true] at e
    obtain ⟨⟨⟨⟨⟨⟨⟨⟨⟨⟨⟨⟨⟨-, -⟩, -⟩, -⟩, ta⟩, tb⟩, ha⟩, hb⟩, na⟩, nb⟩, ka⟩, kb⟩, pa⟩, pb⟩ := e
    cases x <;> cases y <;> simp_all [endRun, Link.endAt, FsmStep.enabled]
    · obtain ⟨-, q, hq, ha, -⟩ := h
      obtain c | ⟨c, all⟩ := pa
      · simp [c] at hq
      · exact ⟨ha ▸ all q hq, c⟩
    · obtain ⟨-, q, hq, ha, -⟩ := h
      obtain c | ⟨c, all⟩ := pb
      · simp [c] at hq
      · exact ⟨ha ▸ all q hq, .inl c⟩
  · have q := quiet_late (44 + 10 * k + j) (by omega) x
    have p := demo_port k j hj
    have q' : Quiet (endRun demo x (44 + 10 * k + j)) := q
    cases y with
    | tick       => exact .inl rfl
    | resendTry  => exact .inr (.inl rfl)
    | take       => simp [FsmStep.enabled, q'.rxPhase] at h
    | advHandoff => obtain c | c := q'.ctl <;> simp [FsmStep.enabled, canAdvHandoff, c] at h
    | advAbandon => obtain c | c := q'.ctl <;> simp [FsmStep.enabled, canAdvAbandon, c] at h
    | ackHandoff => obtain c | c := q'.ctl <;> simp [FsmStep.enabled, canAckHandoff, c] at h
    | service ag =>
      cases x
      · simp [FsmStep.enabled, p.1] at h
      · obtain p | ⟨rfl, p⟩ := p.2
        · simp [FsmStep.enabled, p] at h
        · simp only [FsmStep.enabled, p, List.any_cons, List.any_nil, Bool.or_false, Bool.and_eq_true, beq_iff_eq] at h
          simp [← h.2.1]

theorem demo_fsm (x : Side) : FairFsm (endRun demo x) := by
  intro y n hen
  obtain rfl | rfl | ⟨rfl, rfl, rfl⟩ | ⟨rfl, rfl, rfl⟩ | ⟨rfl, rfl, rfl⟩ | ⟨rfl, rfl, rfl⟩ | ⟨rfl, rfl, rfl⟩ |
    ⟨rfl, rfl, hn⟩ := demo_enabled hen
  · cases x
    · exact ⟨44 + 10 * n + 1, by omega, (demo_takes n).2.1⟩
    · exact ⟨44 + 10 * n + 4, by omega, (demo_takes n).2.2.2.2.1⟩
  · cases x
    · exact ⟨44 + 10 * n + 2, by omega, (demo_takes n).2.2.1⟩
    · exact ⟨44 + 10 * n + 5, by omega, (demo_takes n).2.2.2.2.2.1⟩
  · exact ⟨1, by omega, _, demo_ends.2.2.2.1, rfl⟩
  · exact ⟨39, by omega, .inl demo_ends.2.1.1⟩
  · exact ⟨2, by omega, demo_ends.2.2.1.1⟩
  · exact ⟨21, by omega, .inr demo_ends.2.1.2⟩
  · exact ⟨22, by omega, demo_ends.2.2.1.2⟩
  · obtain rfl | ⟨k, rfl⟩ := hn
    · exact ⟨41, by omega, _, demo_ends.2.2.2.2, rfl⟩
    · exact ⟨44 + 10 * k + 7, by omega, _, (demo_takes k).2.2.2.2.2.2, rfl⟩

theorem demo_fair : Fair demo where
  timer x n := by
    cases x
    · exact ⟨44 + 10 * n + 0, by omega, (demo_takes n).1⟩
    · exact ⟨44 + 10 * n + 3, by omega, (demo_takes n).2.2.2.1⟩
  transmit x n h := by
    have := (h (44 + n) (by omega)).1
    have q := (quiet_late (44 + n) (by omega) x).txBusy
    simp [canTxByte, endRun, q] at this
  receive x n _ h := by
    have hn : n < 44 := by
      by_contra hc
      exact h (quiet_late n (by omega) x).rxLine
    have e := (demo_early n hn).1
    simp only [early, Bool.and_eq_true, Bool.or_eq_true, List.isEmpty_iff, decide_eq_true_eq] at e
    cases x
    · exact ⟨38, (e.1.1.1.1.1.1.1.1.1.1.1.2).resolve_left h, demo_ends.1.1⟩
    · exact ⟨20, (e.1.1.1.1.1.1.1.1.1.1.2).resolve_left h, demo_ends.1.2⟩
  fsm := demo_fsm
  channel x f h := by
    obtain ⟨m, hm, -, hs, -⟩ := h 44
    have q : (endRun demo x (m + 1)).txBusy = false := (quiet_late (m + 1) (by omega) x).txBusy
    rw [q] at hs
    cases hs
  resend x h := by
    obtain ⟨n, h⟩ := h
    have q : (endRun demo x (44 + n)).pendV = false := (quiet_late (44 + n) (by omega) x).pendV
    have := h (44 + n) (by omega)
    rw [q] at this
    cases this

/-- What the driver needs of the first places, one by one. -/
theorem demo_driver_early :
    (∀ n < 43, n ≠ 40 → n ≠ 42 → demoDriver (n + 1) = demoDriver n) ∧
    (∀ n < 43, n ≠ 40 → outstanding 7 (demo (n + 1)).b = true → outstanding 7 (demo n).b = true) ∧
    (demo 40).b.configured = true ∧ (demo 40).b.hostPort = [] ∧ (demo 40).b.agenda = [] ∧
    (demo 42).b.configured = true ∧ (demo 42).b.rxPhase = .hdr ∧ (demo 42).b.agenda = [] ∧ outstanding 7 (demo 42).b = false ∧
    lastReply 7 (demo 42).b = some (.read 7 [0x78#8]) ∧
    (demo 43).b.configured = true ∧ (demo 43).b.rxPhase = .hdr ∧ (demo 43).b.agenda = [] := by
  decide +kernel

/-- An act at B whose step is known. -/
theorem demo_b {n : Nat} {y : Act} {t : State} (ha : demoActs n = .endpoint .b y) (hal : ∀ c p, linkAllows c p y = true)
    (h : step { (demo n).b with agenda := [y] } = .next t) : (demo (n + 1)).b = t := by
  have hr := demo_run n
  rw [ha] at hr
  simp only [Link.act, sideStep, hal, if_true, h, Host.Outcome.next.injEq] at hr
  rw [← hr]

theorem pause_stays {s : State} (h : s.agenda = []) : pause s = s := by
  cases s
  simp_all [pause]

/-- The driver issues its operation, from an empty port. -/
theorem driver_issues {s : State} (h : s.hostPort = []) (g : s.agenda = []) :
    Driver.step 7 (.issuing (.read 1#32)) s = (.waiting (.read 1#32), poll1 s) := by
  have e : encode s.cfgStart (.hostRead 1#32) = [0x02#8, 0#8, 0#8, 0#8, 1#8] := by rfl
  simp [Driver.step, outstanding, h, Call.command, e, poll1, ← g]

theorem demoDriver_late (k j : Nat) (hj : j < 10) : demoDriver (44 + 10 * k + j) =
    if j ≤ 6 then .issuing (.read 1#32) else if j ≤ 8 then .waiting (.read 1#32) else .backoff 1#32 := by
  simp only [demoDriver, show ¬ 44 + 10 * k + j ≤ 40 by omega, show ¬ 44 + 10 * k + j ≤ 42 by omega,
    show ¬ 44 + 10 * k + j = 43 by omega, show (44 + 10 * k + j - 44) % 10 = j by omega, if_false]

theorem demo_driven : DrivenBy 7 demoDriver (endRun demo .b) := by
  obtain ⟨d, o, c40, h40, g40, c42, p42, g42, o42, l42, c43, p43, g43⟩ := demo_driver_early
  have e41 : endRun demo .b 41 = poll1 (endRun demo .b 40) := demo_b (n := 40) rfl (fun _ _ => rfl) (step_poll1 c40 h40)
  have e43 : endRun demo .b 43 = endRun demo .b 42 :=
    (demo_b (n := 42) rfl (fun _ _ => rfl) (step_pause c42 p42)).trans (pause_stays g42)
  have e44 : endRun demo .b 44 = endRun demo .b 43 :=
    (demo_b (n := 43) rfl (fun _ _ => rfl) (step_pause c43 p43)).trans (pause_stays g43)
  intro n
  obtain hn | ⟨k, j, hj, rfl⟩ := place n
  · by_cases h1 : n = 40
    · subst h1
      left
      rw [e41]
      exact (driver_issues h40 g40).symm
    · by_cases h2 : n = 42
      · subst h2
        left
        rw [e43]
        have : Driver.step 7 (.waiting (.read 1#32)) (demo 42).b = (.readDone [0x78#8], (demo 42).b) := by
          simp [Driver.step, o42, l42, Driver.onReply]
        exact this.symm
      · by_cases h3 : n = 43
        · subst h3
          exact .inr (.inr ⟨rfl, e44, _, rfl⟩)
        · exact .inr (.inl ⟨d n (by omega) h1 h2, o n (by omega) h1⟩)
  · obtain ⟨a, b, ha, hb, -, -, e, e'⟩ := demo_pair k j hj
    have dj := demoDriver_late k j hj
    have dj' : demoDriver (44 + 10 * k + j + 1) =
        if j ≤ 5 then .issuing (.read 1#32) else if j ≤ 7 then .waiting (.read 1#32) else if j ≤ 8 then .backoff 1#32
        else .issuing (.read 1#32) := by
      by_cases h : j = 9
      · subst h
        exact demoDriver_late (k + 1) 0 (by omega)
      · have := demoDriver_late k (j + 1) (by omega)
        rw [show 44 + 10 * k + (j + 1) = 44 + 10 * k + j + 1 by omega] at this
        rw [this]
        simp only [show j + 1 ≤ 6 ↔ j ≤ 5 by omega, show j + 1 ≤ 8 ↔ j ≤ 7 by omega, show j ≤ 8 by omega, if_true]
    rw [dj, dj', e, e']
    have hp := hb.hostPort
    have idle0 : outstanding 7 b = false := by simp [outstanding, hp]
    have hw : ∀ s : State, s.hostPort = [] → s.agenda = [] → lastReply 7 s = some (.read 7 []) →
        Driver.step 7 (.waiting (.read 1#32)) s = (.backoff 1#32, s) := by
      intro s h1 h2 h3
      simp [Driver.step, outstanding, h1, h3, Driver.onReply]
    have polled : lastReply 7 (poll2 (poll1 (tick3 (tick2 (tick1 b))))) = some (.read 7 []) := by
      simp [lastReply, poll2, poll1, Reply.agent]
    interval_cases j <;> first
      | exact .inr (.inl ⟨rfl, fun h => h⟩)
      | exact .inl (driver_issues (s := tick3 (tick2 (tick1 b))) hp rfl).symm
      | exact .inr (.inl ⟨rfl, fun h => by cases h⟩)
      | exact .inl (hw (poll2 (poll1 (tick3 (tick2 (tick1 b))))) rfl rfl polled).symm
      | exact .inl rfl

theorem demo_polling : FairPolling 7 demoDriver (endRun demo .b) := fun _ n =>
  ⟨44 + 10 * n + 7, by omega, [], (demo_takes n).2.2.2.2.2.2⟩

theorem demo_reads : InfinitelyOften (fun n => (demoDriver n).readLength ≠ none) ∧ ∀ n, (demoDriver n).readLength ≠ some 0#32 := by
  refine ⟨fun n => ⟨44 + 10 * n + 0, by omega, ?_⟩, fun n => ?_⟩
  · show (demoDriver (44 + 10 * n + 0)).readLength ≠ none
    rw [demoDriver_late n 0 (by omega)]
    decide
  · simp only [demoDriver]
    repeat' split
    all_goals decide

/-- What was written and what is read. -/
theorem demo_delivers : writtenSince demo .a 44 = [0x78#8] ∧ readSince demo .b 44 = [0x78#8] ∧ (endRun demo .b 44).ib = [] := by
  simp only [writtenSince, readSince, endRun, Link.endAt]
  decide +kernel

theorem witness_StreamsArePrefixes : IsConnection demoActs demo ∧ (∀ x, NoCollision (endRun demo x) (endRun demo x.peer)) ∧
    writtenSince demo .a 44 = [0x78#8] ∧ readSince demo .b 44 = [0x78#8] :=
  ⟨demo_connection, demo_noCollision, demo_delivers.1, demo_delivers.2.1⟩

theorem witness_EveryWrittenByteArrives : IsConnection demoActs demo ∧ Fair demo ∧
    (∀ x, NoCollision (endRun demo x) (endRun demo x.peer)) ∧ writtenSince demo .a 44 = [0x78#8] :=
  ⟨demo_connection, demo_fair, demo_noCollision, demo_delivers.1⟩

theorem witness_ReadersGetEveryByte : IsConnection demoActs demo ∧ Fair demo ∧
    (∀ y, NoCollision (endRun demo y) (endRun demo y.peer)) ∧ DrivenBy 7 demoDriver (endRun demo (Side.peer .a)) ∧
    outstanding 7 (endRun demo (Side.peer .a) 0) = false ∧ (∃ c, demoDriver 0 = .issuing c) ∧
    FairPolling 7 demoDriver (endRun demo (Side.peer .a)) ∧ InfinitelyOften (fun n => (demoDriver n).readLength ≠ none) ∧
    (∀ n, (demoDriver n).readLength ≠ some 0#32) :=
  ⟨demo_connection, demo_fair, demo_noCollision, demo_driven, rfl, ⟨_, rfl⟩, demo_polling, demo_reads.1, demo_reads.2⟩
/-- An agent that has read a byte, then nothing. -/
theorem witness_ReadOfNothingNeverReturns :
    let s : State := { r0 with replies := [.read 0 [1#8], .read 0 [], .read 1 [2#8]] }
    r0.ctl = .loop ∧ outstanding 0 s = false ∧ lastReply 0 s = some (.read 0 []) ∧ (Reply.read 0 []).readData = [] := by decide

theorem witness_WriteReturnsItsLength : [(0x78#8 : Byte)].length < 2 ^ 32 ∧ r0.configured = true ∧ r0.ctl = .loop ∧ r0.hostPort = [] := by
  decide

end Sys2Proof.Tests
end

/-! ## The observation only grows (O51)

A step that runs an instruction waits, or it logs one label; only a host operation replies, only RXD and TX_ERR record an error, and
only TX_BYTE emits. A reset emits free bytes and keeps the rest (log 11, log 12). -/

namespace Sys2Proof.Machine

/-- The second list is the first with at most one entry appended. -/
def GrowsByAtMostOne {α : Type} (l l' : List α) : Prop := l <+: l' ∧ l'.length ≤ l.length + 1

@[simp] theorem growsByAtMostOne_refl {α : Type} (l : List α) : GrowsByAtMostOne l l :=
  ⟨List.prefix_refl l, Nat.le_succ _⟩

@[simp] theorem growsByAtMostOne_append_singleton {α : Type} (l : List α) (x : α) : GrowsByAtMostOne l (l ++ [x]) :=
  ⟨List.prefix_append l [x], by simp⟩

/-- From `s` to `t` nothing observed is taken back, and at most one record, one reply and one label are added. The transmit line has
no bound: a reset may emit several bytes (70_reset_and_hazards.md R253). -/
structure State.ObservationGrows (s t : State) : Prop where
  tx      : s.obsTx <+: t.obsTx
  err     : GrowsByAtMostOne s.obsErr t.obsErr
  replies : GrowsByAtMostOne s.replies t.replies
  history : GrowsByAtMostOne s.history t.history

namespace State.ObservationGrows

theorem refl (s : State) : s.ObservationGrows s :=
  ⟨List.prefix_refl _, growsByAtMostOne_refl _, growsByAtMostOne_refl _, growsByAtMostOne_refl _⟩

/-- A step's label is the one entry of the history it adds. Where the step leaves the other parts alone, or appends one entry to them,
the lemmas on its fields show it. -/
theorem of_logStep {s u : State} {label : Byte} (tx : s.obsTx <+: u.obsTx := by simp)
    (err : GrowsByAtMostOne s.obsErr u.obsErr := by simp) (replies : GrowsByAtMostOne s.replies u.replies := by simp)
    (history : u.history = s.history := by simp) : s.ObservationGrows (logStep label u) :=
  ⟨tx, err, replies, by simp [history]⟩

/-- What a meaning is known to answer is the state it answers. -/
theorem of_next {s t u : State} {o : Host.Outcome State Fault Refusal} (known : o = .next u) (h : o = .next t)
    (grows : s.ObservationGrows u) : s.ObservationGrows t := by
  cases known.symm.trans h
  exact grows

end State.ObservationGrows

theorem acceptByte_growsByAtMostOne (b : Byte) (s : State) : GrowsByAtMostOne s.obsErr (acceptByte b s).obsErr := by
  rcases acceptByte_obsErr b s with h | ⟨e, h⟩ <;> simp [h]

/-- A reset keeps what was observed (log 12), and adds only the bytes on the transmit line (log 11). -/
theorem applyReset_observationGrows (mtu : Byte) (retry : Nat) (start : Byte) (s : State) :
    s.ObservationGrows (applyReset mtu retry start s) :=
  { State.ObservationGrows.refl s with tx := List.prefix_append _ _ }

/-- No instruction takes back what is observed: it waits, or it logs its label. -/
theorem exec_observationGrows {i : Instr} {s t : State} (h : exec i s = .next t) : s.ObservationGrows t := by
  cases i with
  | frameAck ack size data =>
    rcases execFrameAck_cases ack size data s with e | ⟨-, -, -, ⟨-, -, e⟩ | ⟨-, e⟩⟩
    · exact .of_next e h (.refl s)
    · exact .of_next e h .of_logStep
    · exact .of_next e h .of_logStep
  | frameData id ack size data =>
    rcases execFrameData_cases id ack size data s with e | ⟨-, -, -, -, ⟨-, -, e⟩ | ⟨-, e⟩⟩
    · exact .of_next e h (.refl s)
    · exact .of_next e h .of_logStep
    · exact .of_next e h .of_logStep
  | frameBadStart h0 h1 h2 h3 =>
    rcases execFrameBadStart_cases h0 h1 h2 h3 s with e | ⟨rest, -, -, -, -, e⟩
    · exact .of_next e h (.refl s)
    · exact .of_next e h .of_logStep
  | hostWrite data =>
    rcases execHostWrite_cases data s with ⟨-, e⟩ | ⟨-, e⟩
    · exact .of_next e h (.refl s)
    · exact .of_next e h .of_logStep
  | hostRead n =>
    rcases execHostRead_cases n s with ⟨-, e⟩ | ⟨-, e⟩
    · exact .of_next e h (.refl s)
    · exact .of_next e h .of_logStep
  | hostReserved opcode => cases h
  | tick =>
    rcases execTick_cases s with ⟨-, e⟩ | ⟨-, -, e⟩
    · exact .of_next e h (.refl s)
    · exact .of_next e h .of_logStep
  | advHandoff =>
    rcases execAdvHandoff_cases s with ⟨-, e⟩ | ⟨-, -, e⟩
    · exact .of_next e h (.refl s)
    · obtain ⟨-, rfl⟩ := handoffThen_next (e.symm.trans h)
      exact .of_logStep
  | advAbandon =>
    rcases execAdvAbandon_cases s with ⟨-, e⟩ | ⟨-, -, e⟩
    · exact .of_next e h (.refl s)
    · exact .of_next e h .of_logStep
  | resendTry =>
    rcases execResendTry_cases s with ⟨-, e⟩ | ⟨-, -, -, e⟩ | ⟨-, -, e⟩
    · exact .of_next e h (.refl s)
    · obtain ⟨-, rfl⟩ := handoffThen_next (e.symm.trans h)
      exact .of_logStep
    · exact .of_next e h .of_logStep
  | ackHandoff =>
    rcases execAckHandoff_cases s with ⟨-, e⟩ | ⟨-, -, e⟩
    · exact .of_next e h (.refl s)
    · exact .of_next e h .of_logStep
  | rxByte =>
    rcases execRxByte_cases s with ⟨-, e⟩ | ⟨b, rest, -, -, e⟩
    · exact .of_next e h (.refl s)
    · exact .of_next e h (.of_logStep (err := acceptByte_growsByAtMostOne b { s with rxLine := rest }))
  | rxIoerr =>
    rcases execRxIoerr_cases s with ⟨-, e⟩ | ⟨-, e⟩
    · exact .of_next e h (.refl s)
    · exact .of_next e h .of_logStep
  | txByte =>
    rcases execTxByte_cases s with ⟨-, e⟩ | ⟨b, rest, -, -, e⟩
    · exact .of_next e h (.refl s)
    · exact .of_next e h .of_logStep
  | txErr =>
    rcases execTxErr_cases s with ⟨-, e⟩ | ⟨-, e⟩
    · exact .of_next e h (.refl s)
    · exact .of_next e h .of_logStep
  | tmrTick =>
    cases h
    exact .of_logStep

/-- Fetching observes nothing (42_state_machine.md R140). -/
theorem Refetched.observationGrows {s u t : State} (hu : Refetched s u) (h : u.ObservationGrows t) : s.ObservationGrows t := by
  obtain ⟨ag, fc, hs, hp, rfl⟩ := hu
  exact ⟨h.tx, h.err, h.replies, h.history⟩

/-- The step lemma: an observation a step may leave behind extends the one before it (00_scope.md R10). -/
theorem step_observationGrows {s t : State} (h : step s = .next t) : s.ObservationGrows t := by
  obtain ⟨-, ⟨-, i, u, hu, hx⟩ | ⟨-, u, hp, rl, hu, rfl⟩ | ⟨u, mtu, retry, start, hu, -, -, rfl⟩⟩ := step_next h
  · exact hu.observationGrows (exec_observationGrows hx)
  · exact hu.observationGrows { State.ObservationGrows.refl u with }
  · exact hu.observationGrows (applyReset_observationGrows mtu retry start u)

/-- Settles O51: what a step can do (`step_next`) is run an instruction, add inputs that wait, or reset, and each only lets the
observation grow. -/
theorem observationOnlyGrows : Obligations.ObservationOnlyGrows := by
  intro s t h
  obtain ⟨tx, ⟨err, errLen⟩, ⟨replies, repliesLen⟩, ⟨history, historyLen⟩⟩ := step_observationGrows h
  exact ⟨tx, err, replies, history, errLen, repliesLen, historyLen⟩

end Sys2Proof.Machine

/-! ## What an instruction does where it does not wait

The outcomes of the sixteen meanings in one relation, so that a rule about every step is one case split. -/

namespace Sys2Proof.Machine

/-- `Effect s i label u`: the instruction `i` is enabled in `s`, its step has this label, and it leaves `u` but for the label in the
event history. One constructor for each way a step can end. -/
inductive Effect (s : State) : Instr → Byte → State → Prop
  /-- The held acknowledgment answers the pending frame (42_state_machine.md R145). -/
  | ackMatched (ack size : Byte) (data : List Byte) (ctl : s.ctl = .loop) (rx : s.rxPhase = .hold)
      (held : s.rxHold = ⟨0#8, ack, size, data⟩) (pend : s.pendV = true) (id : s.pendId = ack) :
      Effect s (.frameAck ack size data) 0x10#8 (advance false { s with rxPhase := .hdr, pendV := false })
  /-- The held acknowledgment answers no pending frame (R145). -/
  | ackIgnored (ack size : Byte) (data : List Byte) (ctl : s.ctl = .loop) (rx : s.rxPhase = .hold)
      (held : s.rxHold = ⟨0#8, ack, size, data⟩) (other : ¬(s.pendV = true ∧ s.pendId = ack)) :
      Effect s (.frameAck ack size data) 0x10#8 { s with rxPhase := .hdr }
  /-- The held data frame is a duplicate (R146). -/
  | dataDuplicate (id ack size : Byte) (data : List Byte) (ctl : s.ctl = .loop) (rx : s.rxPhase = .hold)
      (held : s.rxHold = ⟨id, ack, size, data⟩) (nz : id ≠ 0#8) (lastV : s.lastV = true) (last : s.lastId = id) :
      Effect s (.frameData id ack size data) 0x11#8 { s with rxPhase := .hdr, ackId := id, ctl := .ackWait }
  /-- The held data frame is new (R146). -/
  | dataNew (id ack size : Byte) (data : List Byte) (ctl : s.ctl = .loop) (rx : s.rxPhase = .hold)
      (held : s.rxHold = ⟨id, ack, size, data⟩) (nz : id ≠ 0#8) (new : ¬(s.lastV = true ∧ s.lastId = id)) :
      Effect s (.frameData id ack size data) 0x11#8
        { s with rxPhase := .hdr, ib := s.ib ++ data, lastV := true, lastId := id, ackId := id, ctl := .ackWait }
  /-- The offered byte completes a header with a bad start (40_codec.md R107). -/
  | badStart (h0 h1 h2 h3 : Byte) (rest : List Byte) (rx : s.rxPhase = .hdr) (buf : s.rxBuf = [h0, h1, h2])
      (line : s.rxLine = h3 :: rest) (bad : h0 ≠ s.cfgStart) :
      Effect s (.frameBadStart h0 h1 h2 h3) 0x80#8 (rejectStart { s with rxLine := rest })
  /-- HOST_WRITE (42_state_machine.md R142). -/
  | written (data : List Byte) (ctl : s.ctl = .loop) :
      Effect s (.hostWrite data) 0x01#8 (advance false (replyWrote data { s with ob := s.ob ++ data }))
  /-- HOST_READ (R143). -/
  | read (n : U32) (ctl : s.ctl = .loop) :
      Effect s (.hostRead n) 0x02#8 (replyRead (s.ib.take (readCount n s)) { s with ib := s.ib.drop (readCount n s) })
  /-- TICK (R148). -/
  | ticked (ctl : s.ctl = .loop) (tick : s.tickP = true) :
      Effect s .tick 0x20#8 (advance true { s with tickP := false })
  /-- ADV_HANDOFF (R151). -/
  | handedOver (ctl : s.ctl = .advWait) (idle : s.txBusy = false) (wf : (pendFrame s).wf = true) :
      Effect s .advHandoff 0x30#8
        (continueTo s.ret { s with txQ := encodeFrame s.cfgStart (pendFrame s), txBusy := true })
  /-- ADV_ABANDON (R152). -/
  | abandoned (ctl : s.ctl = .advWait) (tick : s.tickP = true) :
      Effect s .advAbandon 0x31#8 (continueTo s.ret { s with tickP := false })
  /-- RESEND_TRY with a pending frame and an idle TXD (R149). -/
  | resent (ctl : s.ctl = .resendTry) (pend : s.pendV = true) (idle : s.txBusy = false) (wf : (pendFrame s).wf = true) :
      Effect s .resendTry 0x40#8
        { s with txQ := encodeFrame s.cfgStart (pendFrame s), txBusy := true, ctl := .loop }
  /-- RESEND_TRY skips (R149). -/
  | resendSkipped (ctl : s.ctl = .resendTry) (skip : ¬(s.pendV = true ∧ s.txBusy = false)) :
      Effect s .resendTry 0x40#8 { s with ctl := .loop }
  /-- ACK_HANDOFF (R147). -/
  | ackHandedOver (ctl : s.ctl = .ackWait) (idle : s.txBusy = false) :
      Effect s .ackHandoff 0x50#8
        { s with txQ := encodeFrame s.cfgStart (ackFrame s), txBusy := true, ctl := .loop }
  /-- RX_BYTE (43_pumps.md R183). -/
  | received (b : Byte) (rest : List Byte) (rx : s.rxPhase ≠ .hold) (line : s.rxLine = b :: rest) :
      Effect s .rxByte 0x80#8 (acceptByte b { s with rxLine := rest })
  /-- RX_IOERR (R184). -/
  | receiveFailed (rx : s.rxPhase ≠ .hold) : Effect s .rxIoerr 0x81#8 (abortAttempt s)
  /-- TX_BYTE (R185). -/
  | sent (b : Byte) (rest : List Byte) (busy : s.txBusy = true) (queue : s.txQ = b :: rest) :
      Effect s .txByte 0x90#8 { s with obsTx := s.obsTx ++ [b], txQ := rest, txBusy := !rest.isEmpty }
  /-- TX_ERR (R186). -/
  | sendFailed (busy : s.txBusy = true) :
      Effect s .txErr 0x91#8 { raiseErr .txError s with txQ := [], txBusy := false }
  /-- TMR_TICK (60_exceptions.md R232). -/
  | timerTicked : Effect s .tmrTick 0xA0#8 { s with tickP := true, tmrPhase := s.cfgRetry }

/-- An instruction that goes on waits, or has one of its effects and logs its label. -/
theorem exec_next {i : Instr} {s t : State} (h : exec i s = .next t) :
    t = s ∨ ∃ label u, Effect s i label u ∧ t = logStep label u := by
  cases i with
  | frameAck ack size data =>
    rcases execFrameAck_cases ack size data s with e | ⟨hc, hr, hh, ⟨hv, hi, e⟩ | ⟨hn, e⟩⟩ <;> cases e.symm.trans h
    · exact .inl rfl
    · exact .inr ⟨_, _, .ackMatched ack size data hc hr hh hv hi, rfl⟩
    · exact .inr ⟨_, _, .ackIgnored ack size data hc hr hh hn, rfl⟩
  | frameData id ack size data =>
    rcases execFrameData_cases id ack size data s with e | ⟨hc, hr, hh, hz, ⟨hv, hl, e⟩ | ⟨hn, e⟩⟩ <;>
      cases e.symm.trans h
    · exact .inl rfl
    · exact .inr ⟨_, _, .dataDuplicate id ack size data hc hr hh hz hv hl, rfl⟩
    · exact .inr ⟨_, _, .dataNew id ack size data hc hr hh hz hn, rfl⟩
  | frameBadStart h0 h1 h2 h3 =>
    rcases execFrameBadStart_cases h0 h1 h2 h3 s with e | ⟨rest, hr, hb, hl, hs, e⟩ <;> cases e.symm.trans h
    · exact .inl rfl
    · exact .inr ⟨_, _, .badStart h0 h1 h2 h3 rest hr hb hl hs, rfl⟩
  | hostWrite data =>
    rcases execHostWrite_cases data s with ⟨-, e⟩ | ⟨hc, e⟩ <;> cases e.symm.trans h
    · exact .inl rfl
    · exact .inr ⟨_, _, .written data hc, rfl⟩
  | hostRead n =>
    rcases execHostRead_cases n s with ⟨-, e⟩ | ⟨hc, e⟩ <;> cases e.symm.trans h
    · exact .inl rfl
    · exact .inr ⟨_, _, .read n hc, rfl⟩
  | hostReserved opcode => cases h
  | tick =>
    rcases execTick_cases s with ⟨-, e⟩ | ⟨hc, ht, e⟩ <;> cases e.symm.trans h
    · exact .inl rfl
    · exact .inr ⟨_, _, .ticked hc ht, rfl⟩
  | advHandoff =>
    rcases execAdvHandoff_cases s with ⟨-, e⟩ | ⟨hc, hb, e⟩
    · cases e.symm.trans h; exact .inl rfl
    · obtain ⟨hw, rfl⟩ := handoffThen_next (e.symm.trans h)
      exact .inr ⟨_, _, .handedOver hc hb hw, rfl⟩
  | advAbandon =>
    rcases execAdvAbandon_cases s with ⟨-, e⟩ | ⟨hc, ht, e⟩ <;> cases e.symm.trans h
    · exact .inl rfl
    · exact .inr ⟨_, _, .abandoned hc ht, rfl⟩
  | resendTry =>
    rcases execResendTry_cases s with ⟨-, e⟩ | ⟨hc, hv, hb, e⟩ | ⟨hc, hn, e⟩
    · cases e.symm.trans h; exact .inl rfl
    · obtain ⟨hw, rfl⟩ := handoffThen_next (e.symm.trans h)
      exact .inr ⟨_, _, .resent hc hv hb hw, rfl⟩
    · cases e.symm.trans h; exact .inr ⟨_, _, .resendSkipped hc hn, rfl⟩
  | ackHandoff =>
    rcases execAckHandoff_cases s with ⟨-, e⟩ | ⟨hc, hb, e⟩ <;> cases e.symm.trans h
    · exact .inl rfl
    · exact .inr ⟨_, _, .ackHandedOver hc hb, rfl⟩
  | rxByte =>
    rcases execRxByte_cases s with ⟨-, e⟩ | ⟨b, rest, hr, hl, e⟩ <;> cases e.symm.trans h
    · exact .inl rfl
    · exact .inr ⟨_, _, .received b rest hr hl, rfl⟩
  | rxIoerr =>
    rcases execRxIoerr_cases s with ⟨-, e⟩ | ⟨hr, e⟩ <;> cases e.symm.trans h
    · exact .inl rfl
    · exact .inr ⟨_, _, .receiveFailed hr, rfl⟩
  | txByte =>
    rcases execTxByte_cases s with ⟨-, e⟩ | ⟨b, rest, hb, hq, e⟩ <;> cases e.symm.trans h
    · exact .inl rfl
    · exact .inr ⟨_, _, .sent b rest hb hq, rfl⟩
  | txErr =>
    rcases execTxErr_cases s with ⟨-, e⟩ | ⟨hb, e⟩ <;> cases e.symm.trans h
    · exact .inl rfl
    · exact .inr ⟨_, _, .sendFailed hb, rfl⟩
  | tmrTick => cases h; exact .inr ⟨_, _, .timerTicked, rfl⟩

end Sys2Proof.Machine

/-! ## The state after reset, and the configuration (O14, O17) -/

namespace Sys2Proof.Machine

/-- Settles O14: every value is written out in `State.reset`, and the time to the first tick is a successor. -/
theorem resetValues : Obligations.ResetValues :=
  ⟨rfl, rfl, rfl, rfl, rfl, rfl, rfl, rfl, rfl, rfl, rfl, rfl, Nat.succ_pos _, rfl, rfl, rfl, rfl⟩

/-- No effect writes a configuration register (10_state.md R21). -/
theorem Effect.configuration {i : Instr} {label : Byte} {s u : State} (h : Effect s i label u) :
    u.configuration = s.configuration := by
  cases h <;> simp [State.configuration]

theorem exec_configuration {i : Instr} {s t : State} (h : exec i s = .next t) : t.configuration = s.configuration := by
  rcases exec_next h with rfl | ⟨label, u, hu, rfl⟩
  · rfl
  · exact hu.configuration

theorem Refetched.configuration {s u : State} (h : Refetched s u) : u.configuration = s.configuration := by
  obtain ⟨ag, fc, hs, hp, rfl⟩ := h
  rfl

/-- Settles O17: of what a step can do (`step_next`), only a reset writes the configuration. -/
theorem configurationIsConstant : Obligations.ConfigurationIsConstant := by
  intro s t h noReset
  obtain ⟨-, ⟨-, i, u, hu, hx⟩ | ⟨-, u, hp, rl, hu, rfl⟩ | ⟨u, mtu, retry, start, -, resets, -, -⟩⟩ := step_next h
  · exact (exec_configuration hx).trans hu.configuration
  · exact hu.configuration
  · cases noReset.symm.trans resets

end Sys2Proof.Machine

/-! ## Every step keeps the invariants (O44, O45) -/

namespace Sys2Proof.Machine

/-- What a reset leaves has the invariants, if the configuration is legal. -/
theorem inv_of_resetValues {s : State} (config : s.ConfigOk) (ctl : s.ctl = .loop := by rfl) (seq : s.seq = 1#8 := by rfl)
    (pendV : s.pendV = false := by rfl) (ob : s.ob = [] := by rfl) (lastV : s.lastV = false := by rfl)
    (rxPhase : s.rxPhase = .hdr := by rfl) (rxBuf : s.rxBuf = [] := by rfl) (txBusy : s.txBusy = false := by rfl)
    (txQ : s.txQ = [] := by rfl) : s.Inv := by
  constructor <;>
    simp [State.PendOk, State.AdvWaitOk, State.IdleOk, State.IdsOk, State.RxOk, State.TxOk, *]

/-- Settles O44. -/
theorem resetIsInvariant : Obligations.ResetIsInvariant := inv_of_resetValues ⟨by decide, by decide⟩

theorem applyReset_inv {mtu : Byte} {retry : Nat} (start : Byte) (s : State) (legal : legalConfig mtu.toNat retry = true) :
    (applyReset mtu retry start s).Inv :=
  inv_of_resetValues ((configured_iff (applyReset mtu retry start s)).mp legal)

theorem State.Inv.logStep {s : State} (hs : s.Inv) (label : Byte) : (logStep label s).Inv := { hs with }

/-- A decode attempt may be given up at any place. -/
theorem State.Inv.attemptEnded {s : State} (hs : s.Inv) : ({ s with rxBuf := [], rxPhase := .hdr } : State).Inv :=
  { hs with rx := Nat.zero_lt_succ 3 }

theorem State.Inv.heldTaken {s : State} (hs : s.Inv) (hold : s.rxPhase = .hold) : ({ s with rxPhase := .hdr } : State).Inv := by
  have rx := hs.rx
  simp only [State.RxOk, hold] at rx
  exact { hs with rx := by simp [State.RxOk, rx.1] }

/-- CONTINUE goes to LOOP or RESEND_TRY (R154), where the invariants of ADV_WAIT and ACK_WAIT ask nothing. -/
theorem State.Inv.continueTo {s : State} (hs : s.Inv) (r : Bool) : (continueTo r s).Inv :=
  { hs with
    advWait := by cases r <;> simp [State.AdvWaitOk, Machine.continueTo]
    ids := ⟨hs.ids.1, by cases r <;> simp [Machine.continueTo]⟩ }

/-- A frame handed to TXD keeps it busy for 8 to 263 bytes (10_state.md R33). -/
theorem State.Inv.handedOver {s : State} (hs : s.Inv) (f : Frame) (wf : f.wf = true) :
    ({ s with txQ := encodeFrame s.cfgStart f, txBusy := true } : State).Inv := by
  have len := encodeFrame_length s.cfgStart f
  rw [(Frame.wf_iff f).mp wf] at len
  have size : f.size.toNat < 256 := f.size.isLt
  refine { hs with tx := ⟨?_, ?_⟩ }
  · simp [← List.length_pos_iff, len]
  · simp only [len]; omega

/-- The new pending frame (42_state_machine.md R150) has a legal id and 1 to MTU bytes. -/
theorem buildFrame_pendOk (r : Bool) {s : State} (config : s.ConfigOk) (seq : s.seq ≠ 0#8) (ob : s.ob ≠ []) :
    (buildFrame r s).PendOk := by
  obtain ⟨pos, leMtu, leOb, size⟩ := advanceCount_bounds s config.1 ob
  intro _
  simp only [buildFrame, fifoTake, seqNext, size, List.length_take]
  exact ⟨seq, pos, leMtu, Nat.min_eq_left leOb⟩

/-- ADVANCE settles what waits in the buffer: it needs the invariants only of the state with an empty one. With continuation
RESEND_TRY nothing may wait without a pending frame, since ADV_WAIT has continuation LOOP only (R36 (vi), (vii)). -/
theorem advance_inv (r : Bool) {s : State} (hs : ({ s with ob := [] } : State).Inv) (idle : r = true → s.IdleOk) :
    (advance r s).Inv := by
  rcases advance_cases r s with ⟨quiet, e⟩ | ⟨noPend, ob, e⟩ <;> rw [e]
  · refine State.Inv.continueTo (s := s) { hs with idle := fun noPend => ?_ } r
    exact quiet.resolve_left (by simp [noPend])
  · have hr : r = false := by
      cases r
      · rfl
      · exact absurd (idle rfl noPend) ob
    exact { hs with
      seq := seqSucc_ne_zero s.seq
      pend := buildFrame_pendOk r hs.config hs.seq ob
      advWait := fun _ => ⟨rfl, hr⟩
      idle := nofun
      ids := ⟨hs.ids.1, nofun⟩ }

/-- The frame in the bytes of a complete attempt has as many payload bytes as its size field says (40_codec.md R108). -/
theorem frameAt_data_length {bs : List Byte} (complete : bs.length = 8 + (bs.getD 3 0#8).toNat) :
    (frameAt bs).data.length = (frameAt bs).size.toNat := by
  simp only [frameAt, List.length_take, List.length_drop]
  omega

/-- The bytes of an attempt agree with its phase after one more byte (40_codec.md R106-R110). -/
theorem acceptByte_rxOk (b : Byte) {s : State} (hs : s.RxOk) : (acceptByte b s).RxOk := by
  have len : (s.rxBuf ++ [b]).length = s.rxBuf.length + 1 := List.length_append
  have kept : ∀ k < s.rxBuf.length, (s.rxBuf ++ [b]).getD k 0#8 = s.rxBuf.getD k 0#8 := List.getD_append _ _ _
  unfold acceptByte
  cases hp : s.rxPhase <;> simp only [State.RxOk, hp] at hs <;> dsimp only
  case hdr =>
    split_ifs with full bad empty
    · exact Nat.zero_lt_succ 3
    · simp only [State.RxOk, empty, BitVec.toNat_zero]
      exact ⟨by omega, by omega, not_not.mp bad⟩
    · have size : ((s.rxBuf ++ [b]).getD 3 0#8).toNat ≠ 0 := fun z => empty (BitVec.eq_of_toNat_eq z)
      simp only [State.RxOk]
      exact ⟨by omega, by omega, not_not.mp bad⟩
    · simp only [State.RxOk]; omega
  case pay =>
    obtain ⟨header, short, start⟩ := hs
    rw [← kept 0 (by omega)] at start
    rw [← kept 3 (by omega)] at short
    split_ifs <;> simp only [State.RxOk] <;> exact ⟨by omega, by omega, start⟩
  case trl =>
    obtain ⟨body, short, start⟩ := hs
    rw [← kept 0 (by omega)] at start
    rw [← kept 3 (by omega)] at short body
    split_ifs with full good
    · exact ⟨rfl, frameAt_data_length full⟩
    · exact Nat.zero_lt_succ 3
    · simp only [State.RxOk]; exact ⟨by omega, by omega, start⟩
  case hold => simpa only [State.RxOk, hp] using hs

theorem acceptByte_inv (b : Byte) {s : State} (hs : s.Inv) : (acceptByte b s).Inv := by
  have rx := acceptByte_rxOk b hs.rx
  obtain ⟨p, u, h, e, q⟩ := acceptByte_shape b s
  rw [q] at rx ⊢
  exact { hs with rx := rx }

/-- What an instruction does where it does not wait keeps the invariants. -/
theorem Effect.inv {i : Instr} {label : Byte} {s u : State} (h : Effect s i label u) (hs : s.Inv) : u.Inv := by
  cases h with
  | ackMatched ack size data ctl rx =>
    exact advance_inv false { hs.heldTaken rx with
      pend := nofun, advWait := fun w => absurd (ctl.symm.trans w) nofun, idle := fun _ => rfl } nofun
  | ackIgnored ack size data ctl rx => exact hs.heldTaken rx
  | dataDuplicate id ack size data ctl rx held nz =>
    exact { hs.heldTaken rx with advWait := nofun, ids := ⟨hs.ids.1, fun _ => nz⟩ }
  | dataNew id ack size data ctl rx held nz =>
    exact { hs.heldTaken rx with advWait := nofun, ids := ⟨fun _ => nz, fun _ => nz⟩ }
  | badStart h0 h1 h2 h3 rest => exact { hs.attemptEnded with }
  | written data => exact advance_inv false { hs with idle := fun _ => rfl } nofun
  | read n => exact { hs with }
  | ticked => exact advance_inv true { hs with idle := fun _ => rfl } fun _ => hs.idle
  | handedOver ctl idle wf => exact (hs.handedOver _ wf).continueTo s.ret
  | abandoned => exact { hs.continueTo s.ret with }
  | resent ctl pend idle wf => exact (hs.handedOver _ wf).continueTo false
  | resendSkipped => exact hs.continueTo false
  | ackHandedOver => exact (hs.handedOver _ (ackFrame_wf s)).continueTo false
  | received b rest => exact acceptByte_inv b (s := { s with rxLine := rest }) { hs with }
  | receiveFailed => exact { hs.attemptEnded with }
  | sent b rest busy queue =>
    have len := hs.tx.2
    rw [queue, List.length_cons] at len
    exact { hs with tx := ⟨by simp, by simp; omega⟩ }
  | sendFailed => exact { hs with tx := ⟨by simp, by simp⟩ }
  | timerTicked => exact { hs with }

theorem exec_inv {i : Instr} {s t : State} (hs : s.Inv) (h : exec i s = .next t) : t.Inv := by
  rcases exec_next h with rfl | ⟨label, u, hu, rfl⟩
  · exact hs
  · exact (hu.inv hs).logStep label

theorem Refetched.inv {s u : State} (h : Refetched s u) (hs : s.Inv) : u.Inv := by
  obtain ⟨ag, fc, sel, hp, rfl⟩ := h
  exact { hs with }

/-- Settles O45: of what a step can do (`step_next`), an instruction keeps the invariants, waiting inputs stand in none of them, and
a reset makes them hold. -/
theorem stepKeepsInvariant : Obligations.StepKeepsInvariant := by
  intro s t hs h
  obtain ⟨-, ⟨-, i, u, hu, hx⟩ | ⟨-, u, hp, rl, hu, rfl⟩ | ⟨u, mtu, retry, start, -, -, legal, rfl⟩⟩ := step_next h
  · exact exec_inv (hu.inv hs) hx
  · exact { hu.inv hs with }
  · exact applyReset_inv start u legal

end Sys2Proof.Machine

/-! ## No step reads an element that is unspecified where it stands (O52)

`State.specified` picks one state out of each class of states that differ only in unspecified elements. So it is enough that a step
from a state and a step from the picked one come out the same: an operation is `Blind` if its own result does, and blind operations
compose. -/

namespace Sys2Proof.Machine

/-! ### The specified part -/

@[simp] theorem specified_cfgStart (s : State) : s.specified.cfgStart = s.cfgStart := rfl
@[simp] theorem specified_rxPhase (s : State) : s.specified.rxPhase = s.rxPhase := rfl
@[simp] theorem specified_rxBuf (s : State) : s.specified.rxBuf = s.rxBuf := rfl
@[simp] theorem specified_txQ (s : State) : s.specified.txQ = s.txQ := rfl
@[simp] theorem specified_rxLine (s : State) : s.specified.rxLine = s.rxLine := rfl
@[simp] theorem specified_hostPort (s : State) : s.specified.hostPort = s.hostPort := rfl

/-- A pending frame's fields are specified (10_state.md R27). -/
theorem specified_pend {s : State} (h : s.pendV = true) :
    s.specified.pendId = s.pendId ∧ s.specified.pendSize = s.pendSize ∧ s.specified.pendData = s.pendData :=
  ⟨if_pos h, if_pos h, if_pos h⟩

theorem specified_last {s : State} (h : s.lastV = true) : s.specified.lastId = s.lastId := if_pos h

theorem specified_hold {s : State} (h : s.rxPhase = .hold) : s.specified.rxHold = s.rxHold := if_pos h

theorem specified_ack {s : State} (h : s.ctl = .ackWait) : s.specified.ackId = s.ackId := if_pos h

/-- Only where they are specified must the new values of an update be the old ones for the specified part to stay. -/
theorem specified_update {s : State} {pendId pendSize lastId ackId : Byte} {pendData : List Byte} {rxHold : Frame} {tmrPhase : Nat}
    (pend : s.pendV = true → pendId = s.pendId ∧ pendSize = s.pendSize ∧ pendData = s.pendData)
    (last : s.lastV = true → lastId = s.lastId) (hold : s.rxPhase = .hold → rxHold = s.rxHold)
    (ack : s.ctl = .ackWait → ackId = s.ackId) :
    State.specified { s with
      pendId := pendId, pendSize := pendSize, pendData := pendData, lastId := lastId, rxHold := rxHold, ackId := ackId,
      tmrPhase := tmrPhase } = s.specified := by
  simp only [State.specified, State.mk.injEq, true_and, and_true]
  exact ⟨ite_congr rfl ack fun _ => rfl, ite_congr rfl (fun v => (pend v).1) fun _ => rfl,
    ite_congr rfl (fun v => (pend v).2.1) fun _ => rfl, ite_congr rfl (fun v => (pend v).2.2) fun _ => rfl,
    ite_congr rfl last fun _ => rfl, ite_congr rfl hold fun _ => rfl⟩

@[simp] theorem specified_specified (s : State) : s.specified.specified = s.specified :=
  specified_update (s := s) specified_pend specified_last specified_hold specified_ack

/-! ### Operations -/

/-- The specified part of what an operation leaves depends only on the specified part of what it starts from. -/
def Blind (f : State → State) : Prop := ∀ s, (f s.specified).specified = (f s).specified

namespace Blind

/-- An operation that neither reads an element that can be unspecified nor turns one specified or unspecified. -/
theorem of_commutes {f : State → State} (h : ∀ s, f s.specified = (f s).specified) : Blind f := fun s => by
  rw [h, specified_specified]

theorem comp {g f : State → State} (hg : Blind g) (hf : Blind f) : Blind fun s => g (f s) := fun s => by
  rw [← hg (f s.specified), hf, hg]

/-- A blind operation after one of `of_commutes`. -/
theorem after {g : State → State} (hg : Blind g) (f : State → State)
    (h : ∀ s, f s.specified = (f s).specified := by intro; rfl) : Blind fun s => g (f s) :=
  hg.comp (of_commutes h)

theorem ite {c : State → Bool} {f g : State → State} (hc : ∀ s, c s.specified = c s) (hf : Blind f) (hg : Blind g) :
    Blind fun s => if c s then f s else g s := fun s => by
  simp only [hc]
  split
  · exact hf s
  · exact hg s

theorem logStep (label : Byte) : Blind (logStep label) := of_commutes fun _ => rfl

theorem raiseErr (e : ErrKind) : Blind (raiseErr e) := of_commutes fun _ => rfl

/-- Wherever the FSM goes but to ACK_WAIT, the acknowledgment's id is unspecified. -/
theorem setCtl (c : Ctl) (hc : c ≠ .ackWait) : Blind fun s => { s with ctl := c } := fun s =>
  specified_update (s := { s with ctl := c }) specified_pend specified_last specified_hold fun h => absurd h hc

theorem continueTo (r : Bool) : Blind (continueTo r) := setCtl _ (by cases r <;> decide)

theorem continueToRet : Blind fun s => Machine.continueTo s.ret s := fun s => continueTo s.ret s

/-- A new frame fills every field of the pending frame. -/
theorem buildFrame (r : Bool) : Blind (buildFrame r) := fun s =>
  specified_update (s := Machine.buildFrame r s) (fun _ => ⟨rfl, rfl, rfl⟩) specified_last specified_hold nofun

theorem advance (r : Bool) : Blind (advance r) := fun s => by
  rcases advance_cases r s with ⟨h, e⟩ | ⟨h, h', e⟩
  · rw [e, advance_idle r s.specified h]
    exact continueTo r s
  · rw [e, advance_build r s.specified h h']
    exact buildFrame r s

theorem clearPend : Blind fun s => { s with pendV := false } := fun s =>
  specified_update (s := { s with pendV := false }) nofun specified_last specified_hold specified_ack

theorem acceptNew (id : Byte) (data : List Byte) : Blind (acceptNew id data) := fun s =>
  specified_update (s := Machine.acceptNew id data s) specified_pend (fun _ => rfl) specified_hold specified_ack

theorem acknowledge (id : Byte) : Blind fun s => { s with ackId := id, ctl := .ackWait } := fun s =>
  specified_update (s := { s with ackId := id, ctl := .ackWait }) specified_pend specified_last specified_hold fun _ => rfl

/-- Outside HOLD the held frame is unspecified. -/
theorem setPhase (p : RxPhase) (hp : p ≠ .hold) : Blind fun s => { s with rxPhase := p } := fun s =>
  specified_update (s := { s with rxPhase := p }) specified_pend specified_last (fun h => absurd h hp) specified_ack

theorem setAttempt (buf : List Byte) (p : RxPhase) (hp : p ≠ .hold) : Blind fun s => { s with rxBuf := buf, rxPhase := p } :=
  (setPhase p hp).after fun s => { s with rxBuf := buf }

theorem rejectStart : Blind rejectStart := (setAttempt [] .hdr nofun).comp (raiseErr _)

theorem rejectTrailer : Blind rejectTrailer := (setAttempt [] .hdr nofun).comp (raiseErr _)

theorem abortAttempt : Blind abortAttempt := (setAttempt [] .hdr nofun).comp (raiseErr _)

theorem holdFrame (f : Frame) : Blind (holdFrame f) := of_commutes fun _ => rfl

/-- The decoder reads the bytes of its attempt, never the holding register. -/
theorem acceptByte (b : Byte) : Blind (acceptByte b) := fun s => by
  rw [Machine.acceptByte, Machine.acceptByte, specified_rxBuf, specified_rxPhase, specified_cfgStart]
  cases s.rxPhase with
  | hdr =>
    dsimp only
    split_ifs
    · exact rejectStart s
    · exact setAttempt _ .trl nofun s
    · exact setAttempt _ .pay nofun s
    · exact setAttempt _ .hdr nofun s
  | pay =>
    dsimp only
    split_ifs
    · exact setAttempt _ .trl nofun s
    · exact setAttempt _ .pay nofun s
  | trl =>
    dsimp only
    split_ifs
    · exact holdFrame _ s
    · exact rejectTrailer s
    · exact setAttempt _ .trl nofun s
  | hold => exact specified_specified s

/-- The time left is never specified (log 4). -/
theorem timerTick : Blind fun s => { s with tickP := true, tmrPhase := s.cfgRetry } := fun s =>
  specified_update (s := { s with tickP := true, tmrPhase := s.cfgRetry }) specified_pend specified_last specified_hold
    specified_ack

end Blind

/-! ### Meanings -/

/-- Two outcomes whose states differ only in unspecified elements. -/
def SameView (o o' : Host.Outcome State Fault Refusal) : Prop :=
  viewOutcome State.specified o = viewOutcome State.specified o'

theorem SameView.next {u v : State} (h : u.specified = v.specified) : SameView (.next u) (.next v) := congrArg Host.Outcome.next h

theorem Blind.logged {f : State → State} (hf : Blind f) {label : Byte} (s : State) :
    SameView (.next (Machine.logStep label (f s.specified))) (.next (Machine.logStep label (f s))) :=
  .next ((Blind.logStep label).comp hf s)

theorem SameView.ite {c c' : Prop} [Decidable c] [Decidable c'] {o o' p p' : Host.Outcome State Fault Refusal} (hc : c' ↔ c)
    (ho : c → SameView o' o) (hp : ¬c → SameView p' p) : SameView (if c' then o' else p') (if c then o else p) := by
  by_cases h : c
  · rw [if_pos h, if_pos (hc.mpr h)]
    exact ho h
  · rw [if_neg h, if_neg (mt hc.mp h)]
    exact hp h

/-- A step whose enabling condition reads nothing unspecified: it waits in both states, or it is taken in both. -/
theorem SameView.guarded {c c' : Prop} [Decidable c] [Decidable c'] {o o' : Host.Outcome State Fault Refusal} {s : State}
    (hc : c' ↔ c) (ho : c → SameView o' o) : SameView (if c' then o' else waits s.specified) (if c then o else waits s) :=
  .ite hc ho fun _ => .next (specified_specified s)

theorem SameView.handoffThen (f : Frame) {k : State → State} (hk : Blind k) (s : State) :
    SameView (handoffThen f k s.specified) (handoffThen f k s) := by
  cases wf : f.wf
  · rw [handoffThen_not_wf _ _ _ wf, handoffThen_not_wf _ _ _ wf]
    rfl
  · rw [handoffThen_wf _ _ _ wf, handoffThen_wf _ _ _ wf]
    exact .next ((hk.after fun s => { s with txQ := encodeFrame s.cfgStart f, txBusy := true }) s)

theorem pendFrame_specified {s : State} (h : s.pendV = true) : pendFrame s.specified = pendFrame s := by
  simp [pendFrame, State.specified, h]

theorem ackFrame_specified {s : State} (h : s.ctl = .ackWait) : ackFrame s.specified = ackFrame s := by
  simp [ackFrame, State.specified, h]

theorem ackMatches_specified (a : Byte) (s : State) : ackMatches a s.specified = ackMatches a s := by
  cases h : s.pendV <;> simp [ackMatches, State.specified, h]

theorem isDuplicate_specified (id : Byte) (s : State) : isDuplicate id s.specified = isDuplicate id s := by
  cases h : s.lastV <;> simp [isDuplicate, State.specified, h]

theorem canTake_specified (i : Instr) (s : State) : canTake i s.specified = true ↔ canTake i s = true := by
  rw [canTake_iff, canTake_iff]
  refine and_congr_right fun _ => and_congr_right fun (hold : s.rxPhase = .hold) => ?_
  simp [State.specified, hold]

/-- Every meaning reads only elements that are specified where it reads them. The pending frame is handed over in ADV_WAIT without a
look at `S.PEND_V`, so there it must stand (10_state.md R36 (iii)). -/
theorem exec_specified (i : Instr) {s : State} (hs : s.AdvWaitOk) : SameView (exec i s.specified) (exec i s) := by
  cases i with
  | frameAck ack size data =>
    have taken := (Blind.ite (ackMatches_specified ack) ((Blind.advance false).comp .clearPend)
      (.setCtl .loop nofun)).comp (.setPhase .hdr nofun)
    exact .guarded (canTake_specified _ s) fun _ => taken.logged s
  | frameData id ack size data =>
    have taken := (Blind.acknowledge id).comp ((Blind.ite (isDuplicate_specified id) (f := fun s => s)
      (.of_commutes fun _ => rfl) (.acceptNew id data)).comp (.setPhase .hdr nofun))
    exact .guarded (canTake_specified _ s) fun _ => taken.logged s
  | frameBadStart h0 h1 h2 h3 =>
    exact .guarded Iff.rfl fun _ => (Blind.rejectStart.after fun s => { s with rxLine := s.rxLine.tail }).logged s
  | hostWrite data =>
    exact .guarded Iff.rfl fun _ =>
      ((Blind.advance false).after fun s => replyWrote data { s with ob := fifoAppend s.ob data }).logged s
  | hostRead n =>
    have drained : Blind fun s => replyRead (s.ib.take (readCount n s)) { s with ib := s.ib.drop (readCount n s) } :=
      .of_commutes fun _ => rfl
    exact .guarded Iff.rfl fun _ => drained.logged s
  | hostReserved opcode => rfl
  | tick =>
    exact .guarded Iff.rfl fun _ => ((Blind.advance true).after fun s => { s with tickP := false }).logged s
  | advHandoff =>
    refine .guarded Iff.rfl fun can => ?_
    have ⟨ctl, _⟩ : s.ctl = .advWait ∧ s.txBusy = false := by simpa [canAdvHandoff, txReady] using can
    rw [pendFrame_specified (hs ctl).1]
    exact .handoffThen _ ((Blind.logStep _).comp .continueToRet) s
  | advAbandon =>
    exact .guarded Iff.rfl fun _ => (Blind.continueToRet.after fun s => { s with tickP := false }).logged s
  | resendTry =>
    refine .guarded Iff.rfl fun _ => .ite Iff.rfl (fun will => ?_) fun _ => (Blind.setCtl .loop nofun).logged s
    have ⟨pend, _⟩ : s.pendV = true ∧ s.txBusy = false := by simpa [willResend, txReady] using will
    rw [pendFrame_specified pend]
    exact .handoffThen _ ((Blind.logStep _).comp (.setCtl .loop nofun)) s
  | ackHandoff =>
    refine .guarded Iff.rfl fun can => ?_
    have ⟨ctl, _⟩ : s.ctl = .ackWait ∧ s.txBusy = false := by simpa [canAckHandoff, txReady] using can
    rw [ackFrame_specified ctl]
    exact .handoffThen _ ((Blind.logStep _).comp (.setCtl .loop nofun)) s
  | rxByte =>
    refine .guarded Iff.rfl fun _ => ?_
    rw [specified_rxLine]
    cases s.rxLine with
    | nil => exact .next (specified_specified s)
    | cons b rest => exact ((Blind.acceptByte b).after fun s => { s with rxLine := rest }).logged s
  | rxIoerr => exact .guarded Iff.rfl fun _ => Blind.abortAttempt.logged s
  | txByte =>
    refine .guarded Iff.rfl fun _ => ?_
    rw [specified_txQ]
    cases s.txQ with
    | nil => exact .next (specified_specified s)
    | cons b rest =>
      have emitted : Blind fun s => { s with obsTx := s.obsTx ++ [b], txQ := rest, txBusy := !rest.isEmpty } :=
        .of_commutes fun _ => rfl
      exact emitted.logged s
  | txErr =>
    have dropped : Blind fun s => { raiseErr .txError s with txQ := [], txBusy := false } := .of_commutes fun _ => rfl
    exact .guarded Iff.rfl fun _ => dropped.logged s
  | tmrTick => exact Blind.timerTick.logged s

/-! ### Fetching -/

/-- What is fetched, its state seen through a view. -/
def viewFetched (v : State → State) : Fetched → Fetched
  | .run i s  => .run i (v s)
  | .done s   => .done (v s)
  | .refuse r => .refuse r

@[simp] theorem viewFetched_specified (f : Fetched) :
    viewFetched State.specified (viewFetched State.specified f) = viewFetched State.specified f := by
  cases f <;> simp [viewFetched]

theorem fetchHost_specified (k : Nat) (s : State) :
    fetchHost k s.specified = viewFetched State.specified (fetchHost k s) := by
  unfold fetchHost
  rw [specified_hostPort, show fsmReady s.specified = fsmReady s from rfl]
  cases s.hostPort[k]? with
  | none => rfl
  | some q =>
    dsimp only
    cases decodeHost q.cmd with
    | reject r => rfl
    | ok i rest => cases fsmReady s <;> rfl

theorem fetchHeld_specified (s : State) : fetchHeld s.specified = viewFetched State.specified (fetchHeld s) := by
  by_cases hold : s.rxPhase = .hold
  · rw [fetchHeld, specified_rxPhase, if_pos hold, specified_hold hold, fetchHeld, if_pos hold]
    rfl
  · rw [fetchHeld, specified_rxPhase, if_neg hold, fetchHeld, if_neg hold]
    rfl

theorem fetchByte_specified (s : State) : fetchByte s.specified = viewFetched State.specified (fetchByte s) := by
  unfold fetchByte
  rw [specified_rxLine, show badHeader s.specified = badHeader s from rfl]
  cases s.rxLine with
  | nil => rfl
  | cons b rest => cases badHeader s <;> rfl

theorem ofLabel_specified (label : Byte) (s : State) (f : Fetched) :
    ofLabel label s.specified (viewFetched State.specified f) = viewFetched State.specified (ofLabel label s f) := by
  cases f with
  | run i t => by_cases h : i.label = some label <;> simp [ofLabel, viewFetched, h]
  | done t => rfl
  | refuse r => rfl

/-- The step a schedule names is found by what is specified. -/
theorem fetchPick_specified (p : Pick) (s : State) :
    fetchPick p s.specified = viewFetched State.specified (fetchPick p s) := by
  cases p with
  | serve k => exact fetchHost_specified k s
  | take => exact fetchHeld_specified s
  | agent b =>
    simp only [fetchPick, fetchLabel, fetchHost_specified, fetchHeld_specified, fetchByte_specified, ofLabel_specified]
    split_ifs
    · rfl
    · rfl
    · rfl
    · cases decodeLabel [b] <;> rfl

/-- Of the environment's acts only a reset writes an element that can be unspecified, and it reads none. -/
theorem fetchEnv_specified (e : Env) (s : State) :
    viewFetched State.specified (fetchEnv e s.specified) = viewFetched State.specified (fetchEnv e s) := by
  cases e with
  | issue agent cmd => exact viewFetched_specified (fetchEnv (.issue agent cmd) s)
  | offer bytes => exact viewFetched_specified (fetchEnv (.offer bytes) s)
  | drop i => exact viewFetched_specified (fetchEnv (.drop i) s)
  | alter i b => exact viewFetched_specified (fetchEnv (.alter i b) s)
  | noise i b => exact viewFetched_specified (fetchEnv (.noise i b) s)
  | reset => rfl
  | config mtu retry start => rfl

theorem fetchAct_specified (a : Act) (s : State) :
    viewFetched State.specified (fetchAct a s.specified) = viewFetched State.specified (fetchAct a s) := by
  have pick : ∀ (p : Pick) (u : State),
      viewFetched State.specified (fetchPick p u.specified) = viewFetched State.specified (fetchPick p u) := fun p u => by
    rw [fetchPick_specified, viewFetched_specified]
  cases a with
  | pick p => exact pick p s
  | env e => exact fetchEnv_specified e s
  | settle =>
    simp only [fetchAct]
    rw [show eagerPick s.specified = eagerPick s from rfl]
    cases eagerPick s with
    | none => exact congrArg Fetched.done (specified_specified s)
    | some p => exact pick p { s with agenda := .settle :: s.agenda }

theorem fetch_unconfigured {s : State} (h : s.configured = false) :
    fetch s = .refuse (.illegalConfiguration s.cfgMtu.toNat s.cfgRetry) := by
  simp [fetch, h]

theorem fetch_specified (s : State) :
    viewFetched State.specified (fetch s.specified) = viewFetched State.specified (fetch s) := by
  cases hc : s.configured with
  | false =>
    rw [fetch_unconfigured hc, fetch_unconfigured (s := s.specified) hc]
    rfl
  | true =>
    cases ha : s.agenda with
    | nil =>
      rw [fetch_free hc ha, fetch_free (s := s.specified) hc ha]
      exact fetchAct_specified _ { s with freeCtr := s.freeCtr + 1 }
    | cons a rest =>
      rw [fetch_agenda hc ha, fetch_agenda (s := s.specified) hc ha]
      exact fetchAct_specified a { s with agenda := rest }

/-- Fetching writes neither the control state nor the pending frame. -/
theorem fetch_run_advWaitOk {s u : State} {i : Instr} (hs : s.AdvWaitOk) (h : fetch s = .run i u) : u.AdvWaitOk := by
  rcases fetch_cases s with
    ⟨-, -, j, v, ⟨ag, fc, sel, hp, rfl⟩, e⟩ | ⟨-, -, v, -, e⟩ | ⟨-, x, ag, fc, -, e⟩ | ⟨-, b, -, e⟩ | ⟨-, e⟩
  · cases e.symm.trans h
    exact hs
  · cases e.symm.trans h
  · rcases fetchEnv_cases x { s with agenda := ag, freeCtr := fc } with ⟨v, e'⟩ | ⟨_, _, _, -, -, e'⟩ <;>
      cases (e.trans e').symm.trans h
  · cases e.symm.trans h
  · cases e.symm.trans h

/-! ### A step -/

theorem exec_sameView {i : Instr} {u v : State} (h : u.specified = v.specified) (hu : u.AdvWaitOk) (hv : v.AdvWaitOk) :
    SameView (exec i u) (exec i v) :=
  (Eq.symm (exec_specified i hu)).trans (h ▸ exec_specified i hv)

/-- A step comes out the same from a state and from its specified part. -/
theorem step_specified {s : State} (hs : s.AdvWaitOk) : SameView (step s.specified) (step s) := by
  have f := fetch_specified s
  unfold step
  cases hx : fetch s.specified <;> cases hy : fetch s <;>
    simp only [hx, hy, viewFetched, Fetched.run.injEq, Fetched.done.injEq, Fetched.refuse.injEq, reduceCtorEq] at f
  case run.run =>
    obtain ⟨rfl, e⟩ := f
    exact exec_sameView e (fetch_run_advWaitOk (s := s.specified) hs hx) (fetch_run_advWaitOk hs hy)
  case done.done => exact .next f
  case refuse.refuse =>
    subst f
    rfl

/-- Settles O52: two states that agree in what is specified have one specified part, and a step from either comes out as the step
from that. -/
theorem unspecifiedElementsNeverRead : Obligations.UnspecifiedElementsNeverRead := by
  intro s t h hs
  have ht : t.AdvWaitOk := (h ▸ hs : t.specified.AdvWaitOk)
  exact (Eq.symm (step_specified hs)).trans (h ▸ step_specified ht)

end Sys2Proof.Machine

/-! ## The transmit stream is whole frames (O48)

Only the three hand-offs lengthen what TXD emits and holds, and only TX_ERR shortens it: TX_BYTE moves a byte from the queue to the
line. A hand-off waits for an idle TXD, whose queue is empty, so that the frame stands right after what was emitted. -/

namespace Sys2Proof.Machine

/-- From `s` to `t` the transmit stream stays, or one canonical frame, the pending one or an acknowledgment, is handed to the idle TXD,
or what TXD holds is dropped with a record (43_pumps.md R186, 42_state_machine.md R160-R162). -/
def State.TransmitsWholeFrames (s t : State) : Prop :=
  t.transmitted = s.transmitted ∨
  (∃ f : Frame, f.canonical = true ∧ s.txBusy = false ∧
    ((s.pendV = true ∧ f = pendFrame s) ∨ (s.ctl = .ackWait ∧ f = ackFrame s)) ∧
    t.transmitted = s.transmitted ++ encodeFrame s.cfgStart f) ∨
  (t.obsTx = s.obsTx ∧ t.txQ = [] ∧ t.obsErr = s.obsErr ++ [.txError])

/-- A pending frame is a data frame with its payload whole (30_encoding.md R77). -/
theorem pendFrame_canonical {s : State} (hs : s.PendOk) (pend : s.pendV = true) : (pendFrame s).canonical = true := by
  obtain ⟨id, -, -, len⟩ := hs pend
  simp [pendFrame, Frame.canonical, Frame.wf, id, len]

/-- The acknowledgment of ACK_WAIT never names id 0 (10_state.md R36). -/
theorem ackFrame_canonical {s : State} (hs : s.IdsOk) (ctl : s.ctl = .ackWait) : (ackFrame s).canonical = true := by
  simp [ackFrame, Frame.canonical, Frame.wf, hs.2 ctl]

/-- An idle TXD holds no byte (10_state.md R33). -/
theorem transmitted_of_idle {s : State} (hs : s.TxOk) (idle : s.txBusy = false) : s.transmitted = s.obsTx := by
  have empty : s.txQ = [] := by simpa [idle] using hs.1
  simp [State.transmitted, empty]

/-- A hand-off of the pending frame. -/
theorem State.Inv.transmits_pendFrame {s t : State} (hs : s.Inv) (idle : s.txBusy = false) (pend : s.pendV = true)
    (ht : t.transmitted = s.obsTx ++ encodeFrame s.cfgStart (pendFrame s)) : s.TransmitsWholeFrames t :=
  .inr (.inl ⟨pendFrame s, pendFrame_canonical hs.pend pend, idle, .inl ⟨pend, rfl⟩, by
    rw [ht, transmitted_of_idle hs.tx idle]⟩)

/-- A hand-off of the acknowledgment. -/
theorem State.Inv.transmits_ackFrame {s t : State} (hs : s.Inv) (idle : s.txBusy = false) (ctl : s.ctl = .ackWait)
    (ht : t.transmitted = s.obsTx ++ encodeFrame s.cfgStart (ackFrame s)) : s.TransmitsWholeFrames t :=
  .inr (.inl ⟨ackFrame s, ackFrame_canonical hs.ids ctl, idle, .inr ⟨ctl, rfl⟩, by
    rw [ht, transmitted_of_idle hs.tx idle]⟩)

/-- What an instruction does where it does not wait; the steps not named leave the transmit line and TXD's queue alone. -/
theorem Effect.transmitsWholeFrames {i : Instr} {label : Byte} {s u : State} (h : Effect s i label u) (hs : s.Inv) :
    s.TransmitsWholeFrames u := by
  cases h with
  | handedOver ctl idle => exact hs.transmits_pendFrame idle (hs.advWait ctl).1 rfl
  | resent ctl pend idle => exact hs.transmits_pendFrame idle pend rfl
  | ackHandedOver ctl idle => exact hs.transmits_ackFrame idle ctl rfl
  | sent b rest busy queue => exact .inl (by simp [State.transmitted, queue])
  | sendFailed => exact .inr (.inr ⟨rfl, rfl, rfl⟩)
  | _ => exact .inl (by simp [State.transmitted, rejectStart, abortAttempt])

theorem exec_transmitsWholeFrames {i : Instr} {s t : State} (hs : s.Inv) (h : exec i s = .next t) :
    s.TransmitsWholeFrames t := by
  rcases exec_next h with rfl | ⟨label, u, hu, rfl⟩
  · exact .inl rfl
  · exact hu.transmitsWholeFrames hs

/-- Settles O48: of what a step can do (`step_next`), waiting inputs are no part of the transmit stream, and an instruction lengthens
it by whole frames. -/
theorem transmitStreamIsWholeFrames : Obligations.TransmitStreamIsWholeFrames := by
  intro s t hs h noReset
  obtain ⟨-, ⟨-, i, u, hu, hx⟩ | ⟨-, u, hp, rl, hu, rfl⟩ | ⟨u, mtu, retry, start, -, resets, -, -⟩⟩ := step_next h
  · have sends := exec_transmitsWholeFrames (hu.inv hs) hx
    obtain ⟨ag, fc, sel, hp, rfl⟩ := hu
    exact sends
  · obtain ⟨ag, fc, sel, hp, rfl⟩ := hu
    exact .inl rfl
  · cases noReset.symm.trans resets

end Sys2Proof.Machine

/-! ## The inbound stream grows only at its end (O49)

A read moves bytes from the front of `S.IB` to the end of what the host has read; FRAME_DATA appends a new payload to `S.IB`. -/

namespace Sys2Proof.Machine

/-- From `s` to `t` the inbound stream stays, or the payload of the held data frame is appended, whose id was not the last accepted one
and now is (42_state_machine.md R146). -/
def State.DeliversInOrder (s t : State) : Prop :=
  t.delivered = s.delivered ∨
  (s.ctl = .loop ∧ s.rxPhase = .hold ∧ s.rxHold.id ≠ 0#8 ∧ ¬(s.lastV = true ∧ s.lastId = s.rxHold.id) ∧
    t.delivered = s.delivered ++ s.rxHold.data ∧ t.lastV = true ∧ t.lastId = s.rxHold.id)

/-- The inbound stream stands in the replies and in `S.IB` alone. -/
theorem delivered_congr {s t : State} (replies : t.replies = s.replies) (ib : t.ib = s.ib) : t.delivered = s.delivered := by
  simp only [State.delivered, State.obsRead, replies, ib]

/-- Reading the first `k` bytes of `S.IB` moves no byte out of order. -/
theorem delivered_read (k : Nat) (s : State) :
    (replyRead (s.ib.take k) { s with ib := s.ib.drop k }).delivered = s.delivered := by
  simp [State.delivered, State.obsRead, Reply.readData]

/-- The reply to a write gives the host no byte to read. -/
theorem delivered_written (data : List Byte) (s : State) :
    (advance false (replyWrote data { s with ob := s.ob ++ data })).delivered = s.delivered := by
  simp [State.delivered, State.obsRead, Reply.readData]

/-- What an instruction does where it does not wait; the steps not named write neither the replies nor `S.IB`. -/
theorem Effect.deliversInOrder {i : Instr} {label : Byte} {s u : State} (h : Effect s i label u) : s.DeliversInOrder u := by
  cases h with
  | dataNew id ack size data ctl rx held nz new =>
    rw [State.DeliversInOrder, held]
    exact .inr ⟨ctl, rx, nz, new, (List.append_assoc _ _ _).symm, rfl, rfl⟩
  | read n => exact .inl (delivered_read _ s)
  | written data => exact .inl (delivered_written data s)
  | _ => exact .inl (delivered_congr (by simp [rejectStart, abortAttempt]) (by simp [rejectStart, abortAttempt]))

theorem exec_deliversInOrder {i : Instr} {s t : State} (h : exec i s = .next t) : s.DeliversInOrder t := by
  rcases exec_next h with rfl | ⟨label, u, hu, rfl⟩
  · exact .inl rfl
  · exact hu.deliversInOrder

/-- Settles O49: of what a step can do (`step_next`), waiting inputs are no part of the inbound stream, and an instruction keeps it in
order. -/
theorem inboundStreamInOrder : Obligations.InboundStreamInOrder := by
  intro s t h noReset
  obtain ⟨-, ⟨-, i, u, hu, hx⟩ | ⟨-, u, hp, rl, hu, rfl⟩ | ⟨u, mtu, retry, start, -, resets, -, -⟩⟩ := step_next h
  · have delivers := exec_deliversInOrder hx
    obtain ⟨ag, fc, sel, hp, rfl⟩ := hu
    exact delivers
  · obtain ⟨ag, fc, sel, hp, rfl⟩ := hu
    exact .inl rfl
  · cases noReset.symm.trans resets

end Sys2Proof.Machine

/-! ## What the environment leaves unchanged (O39) -/

namespace Sys2Proof.Machine

/-- Where the environment acts next, a step is its act. -/
theorem step_env {s t : State} {e : Env} (next : s.nextAct = .env e) (h : step s = .next t) :
    ∃ u, Refetched s u ∧ fetchEnv e u = .done t := by
  rcases fetch_cases s with ⟨-, ne, -⟩ | ⟨-, ne, -⟩ | ⟨-, e', ag, fc, next', hf⟩ | ⟨-, b, next', -⟩ | ⟨-, hf⟩
  · exact absurd next (ne e)
  · exact absurd next (ne e)
  · cases next.symm.trans next'
    refine ⟨_, ⟨ag, fc, s.hostSel, s.hostPort, rfl⟩, ?_⟩
    rcases fetchEnv_cases e { s with agenda := ag, freeCtr := fc } with ⟨v, he⟩ | ⟨_, _, _, -, -, he⟩ <;>
      simp only [step, hf, he] at h <;> cases h
    exact he
  · cases next.symm.trans next'
  · simp only [step, hf] at h
    cases h

/-- Settles O39: what HOST and CHAN do only adds to, or changes, the inputs that wait outside the block (`fetchEnv_done`). -/
theorem environmentLeavesBlock : Obligations.EnvironmentLeavesBlock := by
  intro s t e next noReset h
  obtain ⟨u, ⟨ag, fc, sel, hp, rfl⟩, he⟩ := step_env next h
  simp only [State.nextResets, next] at noReset
  rcases fetchEnv_done he with ⟨-, -, hp', rl, rfl⟩ | ⟨rfl, -⟩ | ⟨mtu, retry, start, rfl, -, -⟩
  · exact ⟨rfl, rfl, rfl, rfl, rfl, rfl, rfl, rfl, rfl, rfl⟩
  · cases noReset
  · cases noReset

end Sys2Proof.Machine

/-! ## The outbound stream keeps its order (O50) -/

namespace Sys2Proof.Machine

/-- The outbound stream stands in the pending frame and in `S.OB` alone. -/
theorem unacknowledged_congr {s t : State} (pendV : t.pendV = s.pendV) (pendData : t.pendData = s.pendData) (ob : t.ob = s.ob) :
    t.unacknowledged = s.unacknowledged := by
  simp only [State.unacknowledged, pendV, pendData, ob]

/-- ADVANCE moves the front of the buffer into the pending frame, and loses no byte (42_state_machine.md R150). -/
@[simp] theorem advance_unacknowledged (r : Bool) (s : State) : (advance r s).unacknowledged = s.unacknowledged := by
  rcases advance_cases r s with ⟨-, e⟩ | ⟨noPend, -, e⟩ <;> rw [e]
  · rfl
  · simp [State.unacknowledged, noPend]

/-- A write lengthens the outbound stream at its end (R142). -/
theorem unacknowledged_written (data : List Byte) (s : State) :
    (advance false (replyWrote data { s with ob := s.ob ++ data })).unacknowledged = s.unacknowledged ++ data :=
  (advance_unacknowledged false _).trans (List.append_assoc _ _ _).symm

/-- A matched acknowledgment takes the pending frame's payload off the front (R145). -/
theorem unacknowledged_ackMatched {s : State} (pend : s.pendV = true) :
    s.unacknowledged = s.pendData ++ (advance false { s with rxPhase := .hdr, pendV := false }).unacknowledged := by
  rw [advance_unacknowledged]
  simp [State.unacknowledged, pend]

/-- What an instruction does where it does not wait; the steps not named leave the pending frame and `S.OB` alone, or move bytes
between them by ADVANCE. -/
theorem Effect.unacknowledged {i : Instr} {label : Byte} {s u : State} (h : Effect s i label u) :
    (u.unacknowledged = s.unacknowledged ∧ ∀ data, i ≠ .hostWrite data) ∨
    (∃ data, i = .hostWrite data ∧ u.unacknowledged = s.unacknowledged ++ data) ∨
    (∃ ack size data, i = .frameAck ack size data ∧ s.pendV = true ∧ s.pendId = ack ∧
      s.unacknowledged = s.pendData ++ u.unacknowledged) := by
  cases h with
  | written data => exact .inr (.inl ⟨data, rfl, unacknowledged_written data s⟩)
  | ackMatched ack size data ctl rx held pend id =>
    exact .inr (.inr ⟨ack, size, data, rfl, pend, id, unacknowledged_ackMatched pend⟩)
  | ticked => exact .inl ⟨advance_unacknowledged true _, nofun⟩
  | received b rest =>
    exact .inl ⟨unacknowledged_congr (acceptByte_pendV b _) (acceptByte_pendData b _) (acceptByte_ob b _), nofun⟩
  | _ => exact .inl ⟨unacknowledged_congr rfl rfl rfl, nofun⟩

/-- Settles O50: an instruction waits, and changes nothing, or has one of its effects. -/
theorem outboundStreamInOrder : Obligations.OutboundStreamInOrder := by
  intro i s t h
  rcases exec_next h with rfl | ⟨label, u, hu, rfl⟩
  · exact .inl ⟨rfl, fun _ _ => .inr rfl⟩
  · rcases hu.unacknowledged with ⟨same, noWrite⟩ | grows | shrinks
    · exact .inl ⟨same, fun data e => absurd e (noWrite data)⟩
    · exact .inr (.inl grows)
    · exact .inr (.inr shrinks)

end Sys2Proof.Machine

/-! ## Bytes that decode are an encoding (O3)

Each of the three decoders reads whole fields off the front of the bytes, and writing the fields back gives the same bytes: a header
and a trailer by their four bytes, a payload by its length, a label by its row of the table. -/

namespace Sys2Proof

/-- `bs` is the encoding of `i`, a well-formed instruction of the interface `p`, followed by `rest`. -/
def Encodes (p : Port) (start : Byte) (i : Instr) (rest bs : List Byte) : Prop :=
  i.port = p ∧ i.wf start = true ∧ encode start i ++ rest = bs

/-! ### Frames -/

@[simp] theorem toInstr_port (f : Frame) : f.toInstr.port = .wire := by
  unfold Frame.toInstr
  split <;> rfl

/-- Of a decoded frame's instruction only the payload length has to be checked: its class has the right id (30_encoding.md R75). -/
@[simp] theorem toInstr_wf (start : Byte) (f : Frame) : f.toInstr.wf start = f.wf := by
  unfold Frame.toInstr
  split
  · rfl
  next nz => simp [Instr.wf, Frame.wf, nz]

@[simp] theorem encode_toInstr (start : Byte) (f : Frame) : encode start f.toInstr = encodeFrame start f := by
  rcases f with ⟨id, ack, size, data⟩
  unfold Frame.toInstr
  split
  next z => cases z; rfl
  · rfl

@[simp] theorem classifyHeader_badStart {start h0 : Byte} (h1 h2 h3 : Byte) (data : List Byte) (bad : h0 ≠ start) :
    classifyHeader start h0 h1 h2 h3 data = .frameBadStart h0 h1 h2 h3 := if_pos bad

@[simp] theorem classifyHeader_start (start h1 h2 h3 : Byte) (data : List Byte) :
    classifyHeader start start h1 h2 h3 data = Frame.toInstr ⟨h1, h2, h3, data⟩ := if_neg (not_not.mpr rfl)

theorem decodeStream_invalidStart {start : Byte} {bs : List Byte} {n : Nat} (h : decodeStream start bs = some (.invalidStart, n)) :
    n = 4 ∧ 4 ≤ bs.length ∧ bs.getD 0 0#8 ≠ start := by
  unfold decodeStream at h
  split_ifs at h with short bad <;> cases h
  exact ⟨rfl, not_lt.mp short, bad⟩

theorem decodeStream_frame {start : Byte} {bs : List Byte} {f : Frame} {n : Nat} (h : decodeStream start bs = some (.frame f, n)) :
    f = frameAt bs ∧ n = 8 + (bs.getD 3 0#8).toNat ∧ n ≤ bs.length ∧ bs.getD 0 0#8 = start ∧ trailerGood bs = true := by
  unfold decodeStream at h
  split_ifs at h with short bad unfinished good <;> cases h
  exact ⟨rfl, rfl, not_lt.mp unfinished, not_not.mp bad, good⟩

/-- The first four of enough bytes. -/
theorem take_four {bs : List Byte} (h : 4 ≤ bs.length) :
    bs.take 4 = [bs.getD 0 0#8, bs.getD 1 0#8, bs.getD 2 0#8, bs.getD 3 0#8] :=
  (be32_be32At bs 0 h).symm.trans (be32_fromBe32 _ _ _ _)

/-- The header and payload of the frame in the bytes of an attempt are the bytes before its trailer (30_encoding.md R70). -/
theorem frameBody_frameAt {bs : List Byte} (h : 4 ≤ bs.length) :
    frameBody (bs.getD 0 0#8) (frameAt bs) = bs.take (4 + (bs.getD 3 0#8).toNat) := by
  rw [List.take_add, take_four h]
  rfl

/-- A good trailer is the one the encoder writes (R73, 40_codec.md R103). -/
theorem encodeFrame_frameAt {bs : List Byte} (len : 8 + (bs.getD 3 0#8).toNat ≤ bs.length) (good : trailerGood bs = true) :
    encodeFrame (bs.getD 0 0#8) (frameAt bs) = bs.take (8 + (bs.getD 3 0#8).toNat) := by
  have trailer : crc32 (bs.take (4 + (bs.getD 3 0#8).toNat)) = be32At bs (4 + (bs.getD 3 0#8).toNat) := beq_iff_eq.mp good
  rw [encodeFrame, frameBody_frameAt (by omega), trailer, be32_be32At bs _ (by omega), ← List.take_add]
  congr 1
  omega

theorem frameAt_wf {bs : List Byte} (len : 8 + (bs.getD 3 0#8).toNat ≤ bs.length) : (frameAt bs).wf = true := by
  rw [Frame.wf_iff]
  simp only [frameAt, List.length_take, List.length_drop]
  omega

/-- The receive line's bytes (R70-R75). -/
theorem decodeWire_encodes {start : Byte} {bs rest : List Byte} {i : Instr} (h : decodeWire start bs = .ok i rest) :
    Encodes .wire start i rest bs := by
  unfold decodeWire at h
  split at h
  · cases h
  · cases h
  next n verdict =>
    obtain ⟨rfl, len, bad⟩ := decodeStream_invalidStart verdict
    rw [classifyHeader_badStart _ _ _ _ bad] at h
    cases h
    refine ⟨rfl, bne_iff_ne.mpr bad, ?_⟩
    rw [encode, ← take_four len, List.take_append_drop]
  next f n verdict =>
    obtain ⟨rfl, rfl, len, rfl, good⟩ := decodeStream_frame verdict
    rw [classifyHeader_start] at h
    cases h
    refine ⟨toInstr_port _, (toInstr_wf _ _).trans (frameAt_wf len), ?_⟩
    rw [encode_toInstr, encodeFrame_frameAt len good, List.take_append_drop]

/-! ### Host commands -/

/-- A count that enough bytes follow is the number of those it counts (R79). -/
theorem ofNat_length_take {n : U32} {bs : List Byte} (h : n.toNat ≤ bs.length) :
    BitVec.ofNat 32 (bs.take n.toNat).length = n := by
  rw [List.length_take, Nat.min_eq_left h, BitVec.ofNat_toNat, BitVec.setWidth_eq]

/-- The host port's bytes (R79, R80). -/
theorem decodeHost_encodes (start : Byte) {bs rest : List Byte} {i : Instr} (h : decodeHost bs = .ok i rest) :
    Encodes .host start i rest bs := by
  cases bs with
  | nil => cases h
  | cons op tl =>
    have count (len : ¬tl.length < 4) : be32 (be32At tl 0) = tl.take 4 := be32_be32At tl 0 (not_lt.mp len)
    simp only [decodeHost] at h
    split_ifs at h with write short truncated read short <;> cases h
    · have payload := not_lt.mp truncated
      refine ⟨rfl, decide_eq_true ?_, ?_⟩
      · rw [List.length_take, Nat.min_eq_left payload]
        exact (be32At tl 0).isLt
      · rw [encode, ofNat_length_take payload, count short, write, List.cons_append, List.append_assoc, List.take_append_drop,
          List.take_append_drop]
    · refine ⟨rfl, rfl, ?_⟩
      rw [encode, count short, read, List.cons_append, List.take_append_drop]
    · exact ⟨rfl, by simp [Instr.wf, write, read], rfl⟩

/-! ### Step labels -/

/-- A label of the table is the whole encoding of its step (R81). -/
theorem labelTable_encodes (start : Byte) : ∀ row ∈ labelTable, ∀ rest, Encodes .label start row.2 rest (row.1 :: rest) := by
  intro row h rest
  fin_cases h <;> exact ⟨rfl, rfl, rfl⟩

theorem mem_labelTable_of_lookup {b : Byte} {i : Instr} (h : labelTable.lookup b = some i) : (b, i) ∈ labelTable := by
  obtain ⟨before, after, e, -⟩ := List.lookup_eq_some_iff.mp h
  rw [e]
  exact List.mem_append_right before List.mem_cons_self

theorem decodeLabel_encodes (start : Byte) {bs rest : List Byte} {i : Instr} (h : decodeLabel bs = .ok i rest) :
    Encodes .label start i rest bs := by
  cases bs with
  | nil => cases h
  | cons b tl =>
    simp only [decodeLabel] at h
    split at h
    next found =>
      cases h
      exact labelTable_encodes start _ (mem_labelTable_of_lookup found) rest
    · split_ifs at h

/-- Settles O3: each interface's decoder only answers what its bytes encode. -/
theorem encodeWritesBackEveryDecoded : Obligations.EncodeWritesBackEveryDecoded := by
  intro p start bs rest i h
  cases p with
  | wire => exact decodeWire_encodes h
  | host => exact decodeHost_encodes start h
  | label => exact decodeLabel_encodes start h

end Sys2Proof

/-! ## The encodings' own words and classes, and the reserved opcode (O1, O4, O20) -/

namespace Sys2Proof.Machine

/-- The bytes of one frame decode to it if its trailer is the checksum of the rest (40_codec.md R106-R110). -/
theorem decode_frame {start id ack size t0 t1 t2 t3 : Byte} {data : List Byte} (len : data.length = size.toNat)
    (crc : crc32 ([start, id, ack, size] ++ data) = fromBe32 t0 t1 t2 t3) :
    decode .wire start ([start, id, ack, size] ++ data ++ [t0, t1, t2, t3]) = .ok (Frame.toInstr ⟨id, ack, size, data⟩) [] := by
  have good := trailerGood_eq start id ack size t0 t1 t2 t3 data len
  rw [crc, beq_self_eq_true] at good
  have frame := frameAt_eq start id ack size data [t0, t1, t2, t3] len
  have length : ([start, id, ack, size] ++ data ++ [t0, t1, t2, t3]).length = 8 + size.toNat := by simp [len]; omega
  have verdict : decodeStream start ([start, id, ack, size] ++ data ++ [t0, t1, t2, t3]) =
      some (.frame ⟨id, ack, size, data⟩, 8 + size.toNat) := by
    rw [decodeStream, if_pos good, frame, length]
    simp [Nat.le_add_right_of_le]
  simp only [decode, decodeWire, verdict, ← length, List.drop_length]
  exact congrArg (Decoded.ok · []) (classifyHeader_start _ _ _ _ _)

/-- The trailer of ACK1 (95_test_vectors.md section 0). -/
theorem crc32_ack1 : crc32 [0xA5#8, 0x00#8, 0x01#8, 0x00#8] = fromBe32 0x42#8 0xEA#8 0x07#8 0x6A#8 := by
  simp [crc32, crcByte, crcBits, crcBit, crcPoly, fromBe32]

/-- The trailer of D1_HI (95_test_vectors.md section 0). -/
theorem crc32_d1Hi : crc32 [0xA5#8, 0x01#8, 0x00#8, 0x02#8, 0x68#8, 0x69#8] = fromBe32 0x5F#8 0xBD#8 0xE4#8 0x73#8 := by
  simp [crc32, crcByte, crcBits, crcBit, crcPoly, fromBe32]

/-- Settles O1: the two frames by their trailers' checksums (log 2), the words without one by evaluation. -/
theorem specWordsDecode : Obligations.SpecWordsDecode := by
  refine ⟨?_, ?_, rfl, rfl, rfl, rfl, rfl, rfl, rfl⟩
  · exact decode_frame (data := []) rfl crc32_ack1
  · exact decode_frame (data := [0x68#8, 0x69#8]) rfl crc32_d1Hi

/-- The labels of 30_encoding.md R81. -/
def stepLabels : List Byte :=
  [0x01#8, 0x02#8, 0x10#8, 0x11#8, 0x20#8, 0x30#8, 0x31#8, 0x40#8, 0x50#8, 0x80#8, 0x81#8, 0x90#8, 0x91#8, 0xA0#8]

/-- A label of no step is in neither of the decoder's two lists (R81). -/
theorem decodeLabel_unused {b : Byte} (unused : b ∉ stepLabels) (rest : List Byte) :
    decodeLabel (b :: rest) = .reject (.unusedLabel b) := by
  have notInTable : labelTable.lookup b = none := by
    have sub : ∀ row ∈ labelTable, row.1 ∈ stepLabels := by decide
    exact List.lookup_eq_none_iff.mpr fun row h => bne_iff_ne.mpr fun e => unused (e ▸ sub row h)
  have notElsewhere : b ∉ [0x01#8, 0x02#8, 0x10#8, 0x11#8] :=
    fun h => unused (List.mem_append_left (stepLabels.drop 4) h)
  simp only [decodeLabel, notInTable, if_neg notElsewhere]

theorem fetchLabel_unused {b : Byte} (unused : b ∉ stepLabels) (s : State) :
    fetchLabel b s = .refuse (.unusedStepLabel b) := by
  have ne : ∀ l ∈ stepLabels, b ≠ l := fun l h e => unused (e ▸ h)
  have host : ¬(b = 0x01#8 ∨ b = 0x02#8) := not_or.mpr ⟨ne _ (by decide), ne _ (by decide)⟩
  have held : ¬(b = 0x10#8 ∨ b = 0x11#8) := not_or.mpr ⟨ne _ (by decide), ne _ (by decide)⟩
  simp only [fetchLabel, if_neg host, if_neg held, if_neg (ne 0x80#8 (by decide)), decodeLabel_unused unused]

/-- Settles O4: a header is classified by its first byte and then its id, and an unused label reaches neither the label table nor a
step. -/
theorem headerAndLabelClasses : Obligations.HeaderAndLabelClasses := by
  refine ⟨fun start h0 h1 h2 h3 data => ⟨fun bad => classifyHeader_badStart h1 h2 h3 data bad, ?_, ?_⟩,
    fun b rest start s more unused => ⟨decodeLabel_unused unused rest, fun hc ha => ?_⟩⟩
  · rintro rfl rfl
    exact (classifyHeader_start _ _ _ _ _).trans ((toInstr_eq_frameAck _ _ _ _).mpr rfl)
  · rintro rfl nz
    exact (classifyHeader_start _ _ _ _ _).trans ((toInstr_eq_frameData _ _ _ _ _).mpr ⟨rfl, nz⟩)
  · have refused : fetch s = .refuse (.unusedStepLabel b) := (fetch_agenda hc ha).trans (fetchLabel_unused unused _)
    simp only [step, refused]

/-- Any first byte but those of HOST_WRITE and HOST_READ is a whole command by itself (R80). -/
theorem decodeHost_of_reserved {op : Byte} (notWrite : op ≠ 0x01#8) (notRead : op ≠ 0x02#8) (cmd : List Byte) :
    decodeHost (op :: cmd) = .ok (.hostReserved op) cmd := by
  simp only [decodeHost, if_neg notWrite, if_neg notRead]

/-- A command that decodes is fetched at its place at the host port. -/
theorem fetchHost_run {s : State} {k : Nat} {q : HostReq} {i : Instr} {rest : List Byte} (place : s.hostPort[k]? = some q)
    (decodes : decodeHost q.cmd = .ok i rest) :
    fetchHost k s = .run i (if fsmReady s then grantHost k q rest s else s) := by
  simp only [fetchHost, place, decodes]

/-- Settles O20: the meaning of HOST_RESERVED is the refusal, in whatever state the command is fetched. -/
theorem reservedOpcodeRefused : Obligations.ReservedOpcodeRefused := by
  refine ⟨fun s op => rfl, fun s op agent cmd others more notWrite notRead hc ha port => ?_⟩
  have decodes := decodeHost_of_reserved notWrite notRead cmd
  have fetched : fetch s = .run (.hostReserved op) _ :=
    (fetch_agenda hc ha).trans (fetchHost_run (q := ⟨agent, op :: cmd⟩) (by simp [port]) decodes)
  simp only [step, fetched]
  rfl

end Sys2Proof.Machine

/-! ## The eager schedule (O41)

What the schedule picks is fetched and run with `settle` back on the agenda, so it runs in the state it was picked in. It picks none
exactly where no step is enabled and no complete command waits in LOOP, and whatever it picks is enabled, or is a reserved opcode. -/

namespace Sys2Proof.Machine

/-! ### What settling does -/

section Settle

variable {s : State} {more : List Act}

theorem step_settle_run {p : Pick} {i : Instr} {t : State} (hc : s.configured = true) (ha : s.agenda = .settle :: more)
    (pick : eagerPick s = some p) (run : fetchPick p s = .run i t) : step s = exec i t := by
  have pick' : eagerPick { s with agenda := more } = some p := pick
  have back : ({ s with agenda := .settle :: more } : State) = s := by rw [← ha]
  simp only [step, fetch_agenda hc ha, fetchAct, pick', back, run]

theorem step_settle_none (hc : s.configured = true) (ha : s.agenda = .settle :: more) (pick : eagerPick s = none) :
    step s = .next { s with agenda := more } := by
  have pick' : eagerPick { s with agenda := more } = none := pick
  simp only [step, fetch_agenda hc ha, fetchAct, pick']

/-- A label the schedule picks runs its own step. -/
theorem step_settle_label {b : Byte} {i : Instr} (hc : s.configured = true) (ha : s.agenda = .settle :: more)
    (row : (b, i) ∈ labelTable) (notRx : b ≠ 0x80#8) (pick : eagerPick s = some (.agent b)) : step s = exec i s :=
  step_settle_run hc ha pick (fetchPick_label s b i row notRx)

end Settle

/-! ### What the schedule picks -/

theorem complete_iff (q : HostReq) : q.complete = true ↔ ∃ i rest, decodeHost q.cmd = .ok i rest := by
  unfold HostReq.complete
  cases decodeHost q.cmd <;> simp

/-- A command the FSM can service is complete (30_encoding.md R80). -/
theorem not_servable_of_incomplete {q : HostReq} (h : q.complete = false) : q.servable = false := by
  unfold HostReq.complete at h
  unfold HostReq.servable
  cases decodes : decodeHost q.cmd with
  | ok i rest => simp [decodes] at h
  | reject r => rfl

/-- Where neither TXD nor RXD has a step. -/
def LinesIdle (s : State) : Prop := canTxByte s = false ∧ (rxReading s = false ∨ s.rxLine = [])

theorem eagerPick_txd {s : State} (tx : canTxByte s = true) : eagerPick s = some (.agent 0x90#8) := if_pos tx

theorem eagerPick_rxd {s : State} (noTx : canTxByte s = false) (reads : rxReading s = true) (offered : s.rxLine ≠ []) :
    eagerPick s = some (.agent 0x80#8) := by
  simp [eagerPick, noTx, reads, offered]

theorem eagerPick_fsm {s : State} (idle : LinesIdle s) : eagerPick s = eagerFsm s := by
  obtain ⟨noTx, noRx⟩ := idle
  have : (rxReading s && !s.rxLine.isEmpty) = false := by rcases noRx with h | h <;> simp [h]
  simp [eagerPick, noTx, this]

theorem eagerPick_eq_none_iff (s : State) : eagerPick s = none ↔ LinesIdle s ∧ eagerFsm s = none := by
  by_cases idle : LinesIdle s
  · rw [eagerPick_fsm idle, and_iff_right idle]
  · refine iff_of_false (fun noPick => idle ?_) (fun h => idle h.1)
    unfold eagerPick at noPick
    split_ifs at noPick with tx rx
    have noRx : rxReading s = true → s.rxLine = [] := by simpa using rx
    exact ⟨Bool.eq_false_of_not_eq_true tx, (Bool.eq_false_or_eq_true (rxReading s)).symm.imp_right noRx⟩

theorem eagerEvent_eq_none_iff (s : State) : eagerEvent s = none ↔
    s.rxPhase ≠ .hold ∧ (∀ q ∈ s.hostPort, q.complete = false) ∧ s.tickP = false := by
  rw [← List.findIdx?_eq_none_iff, eagerEvent]
  split
  next hold => simp [hold]
  next hold =>
    cases s.hostPort.findIdx? HostReq.complete <;> simp [hold]

/-- A property of every step of the FSM, step by step. -/
theorem FsmStep.forall_iff {p : FsmStep → Prop} : (∀ x, p x) ↔
    (∀ a, p (.service a)) ∧ p .take ∧ p .tick ∧ p .advHandoff ∧ p .advAbandon ∧ p .resendTry ∧ p .ackHandoff := by
  refine ⟨fun h => ⟨fun a => h _, h _, h _, h _, h _, h _, h _⟩, fun h x => ?_⟩
  obtain ⟨hService, hTake, hTick, hHandoff, hAbandon, hResend, hAck⟩ := h
  cases x with
  | service a => exact hService a
  | _ => assumption

/-- The FSM's schedule stops exactly where no step of the FSM is enabled, but for a complete command with a reserved opcode, which
it takes in LOOP to refuse it (R80). -/
theorem eagerFsm_eq_none_iff (s : State) : eagerFsm s = none ↔
    (∀ x : FsmStep, x.enabled s = false) ∧ (s.ctl = .loop → ∀ q ∈ s.hostPort, q.complete = false) := by
  rw [FsmStep.forall_iff]
  cases hc : s.ctl with
  | loop =>
    simp only [eagerFsm, hc, eagerEvent_eq_none_iff]
    constructor
    · rintro ⟨notHeld, incomplete, noTick⟩
      have noService : ∀ q ∈ s.hostPort, q.servable = false := fun q hq => not_servable_of_incomplete (incomplete q hq)
      refine ⟨⟨fun a => ?_, ?_⟩, fun _ => incomplete⟩
      · simp +contextual [FsmStep.enabled, noService]
      · simp [FsmStep.enabled, canTick, canAdvHandoff, canAdvAbandon, canResendTry, canAckHandoff, hc, notHeld, noTick]
    · rintro ⟨⟨-, take, tick, -⟩, incomplete⟩
      exact ⟨by simpa [FsmStep.enabled, fsmReady, hc] using take, incomplete trivial,
        by simpa [FsmStep.enabled, canTick, hc] using tick⟩
  | advWait =>
    cases hr : txReady s <;>
      simp [eagerFsm, hc, hr, FsmStep.enabled, fsmReady, canTick, canAdvHandoff, canAdvAbandon, canResendTry, canAckHandoff]
  | resendTry =>
    simp [eagerFsm, hc, FsmStep.enabled, canResendTry]
  | ackWait =>
    simp [eagerFsm, hc, FsmStep.enabled, fsmReady, canTick, canAdvHandoff, canAdvAbandon, canResendTry, canAckHandoff]

section Fsm

variable {s : State}

theorem eagerPick_held (idle : LinesIdle s) (ctl : s.ctl = .loop) (hold : s.rxPhase = .hold) : eagerPick s = some .take := by
  simp only [eagerPick_fsm idle, eagerFsm, ctl, eagerEvent, if_pos hold]

/-- Of the operations that wait, the first complete one is picked (log 18). -/
theorem eagerPick_host {pre post : List HostReq} {q : HostReq} (idle : LinesIdle s) (ctl : s.ctl = .loop)
    (notHeld : s.rxPhase ≠ .hold) (port : s.hostPort = pre ++ q :: post) (first : ∀ p ∈ pre, p.complete = false)
    (complete : q.complete = true) : eagerPick s = some (.serve pre.length) := by
  have place : s.hostPort.findIdx? HostReq.complete = some pre.length := by
    simp [port, List.findIdx?_append, List.findIdx?_eq_none_iff.mpr first, List.findIdx?_cons, complete]
  simp only [eagerPick_fsm idle, eagerFsm, ctl, eagerEvent, if_neg notHeld, place]

theorem eagerPick_tick (idle : LinesIdle s) (ctl : s.ctl = .loop) (notHeld : s.rxPhase ≠ .hold)
    (incomplete : ∀ q ∈ s.hostPort, q.complete = false) (tick : s.tickP = true) : eagerPick s = some (.agent 0x20#8) := by
  simp only [eagerPick_fsm idle, eagerFsm, ctl, eagerEvent, if_neg notHeld, List.findIdx?_eq_none_iff.mpr incomplete, if_pos tick]

/-- Where both exits of ADV_WAIT are enabled, the hand-off is picked (log 18). -/
theorem eagerPick_advHandoff (idle : LinesIdle s) (ctl : s.ctl = .advWait) (ready : s.txBusy = false) :
    eagerPick s = some (.agent 0x30#8) := by
  simp [eagerPick_fsm idle, eagerFsm, ctl, txReady, ready]

theorem eagerPick_advAbandon (idle : LinesIdle s) (ctl : s.ctl = .advWait) (busy : s.txBusy = true) (tick : s.tickP = true) :
    eagerPick s = some (.agent 0x31#8) := by
  simp [eagerPick_fsm idle, eagerFsm, ctl, txReady, busy, tick]

theorem eagerPick_resendTry (idle : LinesIdle s) (ctl : s.ctl = .resendTry) : eagerPick s = some (.agent 0x40#8) := by
  simp only [eagerPick_fsm idle, eagerFsm, ctl]

theorem eagerPick_ackHandoff (idle : LinesIdle s) (ctl : s.ctl = .ackWait) (ready : s.txBusy = false) :
    eagerPick s = some (.agent 0x50#8) := by
  simp [eagerPick_fsm idle, eagerFsm, ctl, txReady, ready]

end Fsm

/-- In LOOP a command that decodes leaves the port. -/
theorem fetchHost_loop {s : State} {k : Nat} {q : HostReq} {i : Instr} {rest : List Byte} (ctl : s.ctl = .loop)
    (place : s.hostPort[k]? = some q) (decodes : decodeHost q.cmd = .ok i rest) :
    fetchHost k s = .run i (grantHost k q rest s) := by
  have ready : fsmReady s = true := beq_iff_eq.mpr ctl
  rw [fetchHost_run place decodes, if_pos ready]

/-! ### An enabled step goes on -/

/-- The outcome is a next state with one label more in the history and the agenda as it is. -/
def State.LogsOneLabel (s : State) (o : Host.Outcome State Fault Refusal) : Prop :=
  ∃ t l, o = .next t ∧ t.history = s.history ++ [l] ∧ t.agenda = s.agenda

theorem State.LogsOneLabel.of_next {s u : State} {label : Byte} {o : Host.Outcome State Fault Refusal}
    (known : o = .next (logStep label u)) (history : u.history = s.history := by simp)
    (agenda : u.agenda = s.agenda := by simp) : s.LogsOneLabel o :=
  ⟨_, label, known, by simp [history], agenda⟩

theorem execTxByte_logs {s : State} (tx : canTxByte s = true) : s.LogsOneLabel (exec .txByte s) := by
  rcases execTxByte_cases s with ⟨idle, -⟩ | ⟨b, rest, -, -, e⟩
  · rcases idle with h | h <;> simp [canTxByte, h] at tx
  · exact .of_next e

theorem execRxByte_logs {s : State} (reads : rxReading s = true) (offered : s.rxLine ≠ []) :
    s.LogsOneLabel (exec .rxByte s) := by
  rcases execRxByte_cases s with ⟨hold | empty, -⟩ | ⟨b, rest, -, -, e⟩
  · simp [rxReading, hold] at reads
  · exact absurd empty offered
  · exact .of_next e

theorem execFrameBadStart_logs {s : State} {h0 h1 h2 h3 : Byte} {rest : List Byte} (rx : s.rxPhase = .hdr)
    (buf : s.rxBuf = [h0, h1, h2]) (line : s.rxLine = h3 :: rest) (bad : h0 ≠ s.cfgStart) :
    s.LogsOneLabel (exec (.frameBadStart h0 h1 h2 h3) s) :=
  .of_next (if_pos ⟨rx, buf, by rw [line]; rfl, bad⟩)

/-- In LOOP the held frame is taken, whichever kind it is (42_state_machine.md R144). -/
theorem execHeld_logs {s : State} (ctl : s.ctl = .loop) (hold : s.rxPhase = .hold) :
    s.LogsOneLabel (exec s.rxHold.toInstr s) := by
  have take : canTake s.rxHold.toInstr s = true := (canTake_iff _ s).mpr ⟨ctl, hold, rfl⟩
  by_cases ack : s.rxHold.id = 0#8
  · have e : s.rxHold.toInstr = .frameAck s.rxHold.ack s.rxHold.size s.rxHold.data := if_pos ack
    rw [e] at take ⊢
    exact .of_next (if_pos take) (by split <;> simp) (by split <;> simp)
  · have e : s.rxHold.toInstr = .frameData s.rxHold.id s.rxHold.ack s.rxHold.size s.rxHold.data := if_neg ack
    rw [e] at take ⊢
    exact .of_next (if_pos take) (by dsimp only; split <;> rfl) (by dsimp only; split <;> rfl)

/-- In LOOP a command at the host port is serviced, or refused for its opcode (30_encoding.md R80). -/
theorem execCommand_logs {s : State} {cmd rest : List Byte} {i : Instr} (ctl : s.ctl = .loop) (decodes : decodeHost cmd = .ok i rest) :
    (∃ op, exec i s = .refused (.reservedHostOpcode op)) ∨ s.LogsOneLabel (exec i s) := by
  obtain ⟨port, -, -⟩ := decodeHost_encodes 0#8 decodes
  cases i with
  | hostWrite data =>
    rcases execHostWrite_cases data s with ⟨wait, -⟩ | ⟨-, e⟩
    · exact absurd ctl wait
    · exact .inr (.of_next e)
  | hostRead n =>
    rcases execHostRead_cases n s with ⟨wait, -⟩ | ⟨-, e⟩
    · exact absurd ctl wait
    · exact .inr (.of_next e)
  | hostReserved op => exact .inl ⟨op, rfl⟩
  | _ => cases port

theorem execTick_logs {s : State} (ctl : s.ctl = .loop) (tick : s.tickP = true) : s.LogsOneLabel (exec .tick s) := by
  rcases execTick_cases s with ⟨wait, -⟩ | ⟨-, -, e⟩
  · exact absurd ⟨ctl, tick⟩ wait
  · exact .of_next e

/-- A pending frame can be handed over (40_codec.md R104). -/
theorem State.PendOk.pendFrame_wf {s : State} (hs : s.PendOk) (pend : s.pendV = true) : (pendFrame s).wf = true := by
  obtain ⟨-, -, -, len⟩ := hs pend
  exact (Machine.pendFrame_wf s).mpr len

theorem execAdvHandoff_logs {s : State} (hs : s.Inv) (ctl : s.ctl = .advWait) (ready : s.txBusy = false) :
    s.LogsOneLabel (exec .advHandoff s) := by
  rcases execAdvHandoff_cases s with ⟨wait, -⟩ | ⟨-, -, e⟩
  · exact absurd ⟨ctl, ready⟩ wait
  · exact .of_next (e.trans (handoffThen_wf _ _ s (hs.pend.pendFrame_wf (hs.advWait ctl).1)))

theorem execAdvAbandon_logs {s : State} (ctl : s.ctl = .advWait) (tick : s.tickP = true) : s.LogsOneLabel (exec .advAbandon s) := by
  rcases execAdvAbandon_cases s with ⟨wait, -⟩ | ⟨-, -, e⟩
  · exact absurd ⟨ctl, tick⟩ wait
  · exact .of_next e

theorem execResendTry_logs {s : State} (hs : s.PendOk) (ctl : s.ctl = .resendTry) : s.LogsOneLabel (exec .resendTry s) := by
  rcases execResendTry_cases s with ⟨wait, -⟩ | ⟨-, pend, -, e⟩ | ⟨-, -, e⟩
  · exact absurd ctl wait
  · exact .of_next (e.trans (handoffThen_wf _ _ s (hs.pendFrame_wf pend)))
  · exact .of_next e

theorem execAckHandoff_logs {s : State} (ctl : s.ctl = .ackWait) (ready : s.txBusy = false) :
    s.LogsOneLabel (exec .ackHandoff s) := by
  rcases execAckHandoff_cases s with ⟨wait, -⟩ | ⟨-, -, e⟩
  · exact absurd ⟨ctl, ready⟩ wait
  · exact .of_next e

/-! ### Every pick runs -/

theorem badHeader_iff (s : State) : badHeader s = true ↔
    s.rxPhase = .hdr ∧ ∃ h0 h1 h2, s.rxBuf = [h0, h1, h2] ∧ h0 ≠ s.cfgStart := by
  simp only [badHeader, decide_eq_true_eq, List.length_eq_three]
  constructor
  · rintro ⟨rx, ⟨h0, h1, h2, buf⟩, bad⟩
    exact ⟨rx, h0, h1, h2, buf, by simpa [buf] using bad⟩
  · rintro ⟨rx, h0, h1, h2, buf, bad⟩
    exact ⟨rx, ⟨h0, h1, h2, buf⟩, by simpa [buf] using bad⟩

/-- The pick runs an instruction, which goes on and logs its label, or is a reserved opcode. -/
def PickRuns (s : State) (p : Pick) : Prop :=
  ∃ i t, fetchPick p s = .run i t ∧ ((∃ op, exec i t = .refused (.reservedHostOpcode op)) ∨ s.LogsOneLabel (exec i t))

theorem PickRuns.of_label {s : State} {b : Byte} {i : Instr} (row : (b, i) ∈ labelTable) (notRx : b ≠ 0x80#8)
    (logs : s.LogsOneLabel (exec i s)) : PickRuns s (.agent b) :=
  ⟨i, s, fetchPick_label s b i row notRx, .inr logs⟩

/-- The byte RXD takes is an ordinary one, or the end of a bad header (log 15). -/
theorem pickRuns_rxd {s : State} (reads : rxReading s = true) (offered : s.rxLine ≠ []) : PickRuns s (.agent 0x80#8) := by
  cases bad : badHeader s
  · exact ⟨_, s, fetchByte_rxByte bad, .inr (execRxByte_logs reads offered)⟩
  · obtain ⟨rx, h0, h1, h2, buf, start⟩ := (badHeader_iff s).mp bad
    obtain ⟨b, rest, line⟩ := List.exists_cons_of_ne_nil offered
    exact ⟨_, s, fetchByte_badStart rx buf line start, .inr (execFrameBadStart_logs rx buf line start)⟩

theorem pickRuns_host {s : State} {k : Nat} (ctl : s.ctl = .loop) (first : s.hostPort.findIdx? HostReq.complete = some k) :
    PickRuns s (.serve k) := by
  obtain ⟨bound, complete, -⟩ := List.findIdx?_eq_some_iff_getElem.mp first
  obtain ⟨i, rest, decodes⟩ := (complete_iff _).mp complete
  exact ⟨i, _, fetchHost_loop ctl (List.getElem?_eq_getElem bound) decodes,
    execCommand_logs (s := grantHost k _ rest s) ctl decodes⟩

theorem pickRuns_event {s : State} {p : Pick} (ctl : s.ctl = .loop) (pick : eagerEvent s = some p) : PickRuns s p := by
  unfold eagerEvent at pick
  split at pick
  next hold =>
    cases pick
    exact ⟨_, s, if_pos hold, .inr (execHeld_logs ctl hold)⟩
  split at pick
  next k first =>
    cases pick
    exact pickRuns_host ctl first
  split at pick <;> cases pick
  next tick => exact .of_label (by decide) (by decide) (execTick_logs ctl tick)

theorem pickRuns_fsm {s : State} {p : Pick} (hs : s.Inv) (pick : eagerFsm s = some p) : PickRuns s p := by
  have ready : txReady s = true → s.txBusy = false := by simp [txReady]
  unfold eagerFsm at pick
  split at pick
  next ctl => exact pickRuns_event ctl pick
  next ctl =>
    split_ifs at pick with tx tick <;> cases pick
    · exact .of_label (by decide) (by decide) (execAdvHandoff_logs hs ctl (ready tx))
    · exact .of_label (by decide) (by decide) (execAdvAbandon_logs ctl tick)
  next ctl =>
    cases pick
    exact .of_label (by decide) (by decide) (execResendTry_logs hs.pend ctl)
  next ctl =>
    split_ifs at pick with tx
    cases pick
    exact .of_label (by decide) (by decide) (execAckHandoff_logs ctl (ready tx))

/-- Whatever the schedule picks is enabled, or is a reserved opcode. -/
theorem eagerPick_runs {s : State} {p : Pick} (hs : s.Inv) (pick : eagerPick s = some p) : PickRuns s p := by
  unfold eagerPick at pick
  split_ifs at pick with tx rx
  · cases pick
    exact .of_label (by decide) (by decide) (execTxByte_logs tx)
  · cases pick
    obtain ⟨reads, offered⟩ : rxReading s = true ∧ s.rxLine ≠ [] := by simpa using rx
    exact pickRuns_rxd reads offered
  · exact pickRuns_fsm hs pick

/-- While a step is enabled the schedule picks one. -/
theorem eagerPick_ne_none {s : State}
    (enabled : canTxByte s = true ∨ (rxReading s = true ∧ s.rxLine ≠ []) ∨ ∃ x : FsmStep, x.enabled s = true) :
    eagerPick s ≠ none := by
  intro noPick
  obtain ⟨⟨noTx, noRx⟩, fsm⟩ := (eagerPick_eq_none_iff s).mp noPick
  rcases enabled with tx | ⟨reads, offered⟩ | ⟨x, step⟩
  · simp [noTx] at tx
  · rcases noRx with h | h
    · simp [h] at reads
    · exact offered h
  · simp [((eagerFsm_eq_none_iff s).mp fsm).1 x] at step

/-- The port after a command has been taken from between the others. -/
theorem grantHost_between {s : State} {pre post : List HostReq} {q : HostReq} (port : s.hostPort = pre ++ q :: post)
    (rest : List Byte) : grantHost pre.length q rest s = { s with
      hostSel := q.agent
      hostPort := if rest = [] then pre ++ post else pre ++ ⟨q.agent, rest⟩ :: post } := by
  simp [grantHost, port, List.eraseIdx_append_of_length_le, List.set_append_right]

/-- Settles O41: settling runs what the schedule picks, the schedule picks by R83's order, and it picks none exactly where nothing is
enabled. -/
theorem eagerScheduleTakesEnabledSteps : Obligations.EagerScheduleTakesEnabledSteps := by
  intro s more hs ha
  have hc : s.configured = true := (configured_iff s).mpr hs.config
  refine ⟨fun enabled => ?_, fun pick => ?_, fun noTx noRx disabled incomplete => ?_, fun tx => ?_,
    fun b line noTx reads offered => ?_, fun noTx noRx => ?_⟩
  · obtain ⟨p, pick⟩ := Option.ne_none_iff_exists'.mp (eagerPick_ne_none enabled)
    obtain ⟨i, t, run, outcome⟩ := eagerPick_runs hs pick
    rwa [step_settle_run hc ha pick run]
  · obtain ⟨⟨noTx, noRx⟩, fsm⟩ := (eagerPick_eq_none_iff s).mp pick
    exact ⟨step_settle_none hc ha pick, noTx, noRx, ((eagerFsm_eq_none_iff s).mp fsm).1⟩
  · exact step_settle_none hc ha
      ((eagerPick_eq_none_iff s).mpr ⟨⟨noTx, noRx⟩, (eagerFsm_eq_none_iff s).mpr ⟨disabled, incomplete⟩⟩)
  · exact step_settle_label hc ha (by decide) (by decide) (eagerPick_txd tx)
  · have pick := eagerPick_rxd noTx reads (by simp [offered])
    refine ⟨fun h0 h1 h2 rx buf bad => step_settle_run hc ha pick (fetchByte_badStart rx buf offered bad), fun good => ?_⟩
    have : badHeader s = false := by simpa [badHeader, or_iff_not_imp_left] using good
    exact step_settle_run hc ha pick (fetchByte_rxByte this)
  · have idle : LinesIdle s := ⟨noTx, noRx⟩
    refine ⟨fun ctl hold => ?_, fun pre q post i rest ctl notHeld port first decodes => ?_, fun ctl notHeld incomplete tick => ?_,
      fun ctl ready => ?_, fun ctl busy tick => ?_, fun ctl => ?_, fun ctl ready => ?_⟩
    · exact step_settle_run hc ha (eagerPick_held idle ctl hold) (if_pos hold)
    · have pick := eagerPick_host idle ctl notHeld port first ((complete_iff q).mpr ⟨i, rest, decodes⟩)
      have run := step_settle_run hc ha pick (fetchHost_loop ctl (by simp [port]) decodes)
      rw [grantHost_between port] at run
      exact ⟨fun last => by rw [run, if_pos last], fun notLast => by rw [run, if_neg notLast]⟩
    · exact step_settle_label hc ha (by decide) (by decide) (eagerPick_tick idle ctl notHeld incomplete tick)
    · exact step_settle_label hc ha (by decide) (by decide) (eagerPick_advHandoff idle ctl ready)
    · exact step_settle_label hc ha (by decide) (by decide) (eagerPick_advAbandon idle ctl busy tick)
    · exact step_settle_label hc ha (by decide) (by decide) (eagerPick_resendTry idle ctl)
    · exact step_settle_label hc ha (by decide) (by decide) (eagerPick_ackHandoff idle ctl ready)

end Sys2Proof.Machine

/-! ## Every encoding is read back (O2)

A frame's header and payload fix where its trailer stands, so that the verdict of a whole attempt is one comparison of the checksum
with the four bytes behind them, whatever follows. -/

namespace Sys2Proof

/-- A word that stands whole in the first bytes is read from them, whatever follows (00_scope.md R11). -/
theorem be32At_append_left {a : List Byte} {i : Nat} (len : i + 4 ≤ a.length) (b : List Byte) :
    be32At (a ++ b) i = be32At a i := by
  have kept (k : Nat) (h : k < a.length) : (a ++ b).getD k 0#8 = a.getD k 0#8 := List.getD_append _ _ _ k h
  simp only [be32At]
  rw [kept i (by omega), kept (i + 1) (by omega), kept (i + 2) (by omega), kept (i + 3) (by omega)]

/-- The verdict on a header with a good start, the payload of the size it names, and at least the four bytes of a trailer
(40_codec.md R108-R110). -/
theorem decodeStream_append {start : Byte} {body : List Byte} (len : body.length = 4 + (body.getD 3 0#8).toNat)
    (first : body.getD 0 0#8 = start) {after : List Byte} (trailer : 4 ≤ after.length) :
    decodeStream start (body ++ after) =
      some (if crc32 body = be32At after 0 then .frame (frameAt (body ++ after)) else .checksumMismatch,
        8 + (body.getD 3 0#8).toNat) := by
  have h0 : (body ++ after).getD 0 0#8 = start := (List.getD_append _ _ _ 0 (by omega)).trans first
  have h3 : (body ++ after).getD 3 0#8 = body.getD 3 0#8 := List.getD_append _ _ _ 3 (by omega)
  have total : (body ++ after).length = body.length + after.length := List.length_append
  have good : trailerGood (body ++ after) = (crc32 body == be32At after 0) := by
    rw [trailerGood, h3, ← len, List.take_left, be32At_append]
  rw [decodeStream, if_neg (by omega), if_neg (not_not.mpr h0), h3, if_neg (by omega), good]
  simp only [beq_iff_eq]
  split <;> rfl

/-- A frame is read back from its encoding (R115). -/
theorem decodeStream_encodeFrame (start : Byte) {f : Frame} (wf : f.wf = true) (rest : List Byte) :
    decodeStream start (encodeFrame start f ++ rest) = some (.frame f, 8 + f.size.toNat) := by
  have len := (Frame.wf_iff f).mp wf
  have frame : frameAt (frameBody start f ++ (be32 (crc32 (frameBody start f)) ++ rest)) = f :=
    Machine.frameAt_eq start f.id f.ack f.size f.data _ len
  rw [encodeFrame, List.append_assoc,
    decodeStream_append (start := start) (by rw [frameBody_length, len]; rfl) rfl (by simp), be32At_be32, if_pos rfl, frame]
  rfl

theorem decodeWire_encodeFrame (start : Byte) {f : Frame} (wf : f.wf = true) (rest : List Byte) :
    decodeWire start (encodeFrame start f ++ rest) = .ok f.toInstr rest := by
  have len : (encodeFrame start f).length = 8 + f.size.toNat := by rw [encodeFrame_length, (Frame.wf_iff f).mp wf]
  have first : (encodeFrame start f ++ rest).getD 0 0#8 = start := rfl
  simp only [decodeWire, decodeStream_encodeFrame start wf, first, classifyHeader_start, ← len, List.drop_left]

theorem decodeStream_badStart {start h0 : Byte} (bad : h0 ≠ start) (h1 h2 h3 : Byte) (rest : List Byte) :
    decodeStream start (h0 :: h1 :: h2 :: h3 :: rest) = some (.invalidStart, 4) := by
  simp [decodeStream, bad]

theorem decodeWire_badStart {start h0 : Byte} (bad : h0 ≠ start) (h1 h2 h3 : Byte) (rest : List Byte) :
    decodeWire start (h0 :: h1 :: h2 :: h3 :: rest) = .ok (.frameBadStart h0 h1 h2 h3) rest := by
  simp only [decodeWire, decodeStream_badStart bad]
  exact congrArg (Decoded.ok · rest) (classifyHeader_badStart h1 h2 h3 [] bad)

/-- What stands behind a word's four bytes. -/
@[simp] theorem drop_four_be32 (v : U32) (bs : List Byte) : (be32 v ++ bs).drop 4 = bs := rfl

/-- The count of a write that a command can hold is its number of bytes (30_encoding.md R79). -/
theorem decodeHost_write {data : List Byte} (len : data.length < 2 ^ 32) (rest : List Byte) :
    decodeHost (0x01#8 :: (be32 (BitVec.ofNat 32 data.length) ++ data) ++ rest) = .ok (.hostWrite data) rest := by
  have count : (BitVec.ofNat 32 data.length).toNat = data.length := Nat.mod_eq_of_lt len
  simp [decodeHost, count]

theorem decodeHost_read (n : U32) (rest : List Byte) :
    decodeHost (0x02#8 :: be32 n ++ rest) = .ok (.hostRead n) rest := by
  simp [decodeHost]

/-- Settles O2, interface by interface: a frame by its trailer, a host command by its count, a label by its row of the table. -/
theorem decodeReadsBackEveryEncoding : Obligations.DecodeReadsBackEveryEncoding := by
  intro start i rest wf
  cases i with
  | frameAck ack size data => exact decodeWire_encodeFrame start (f := ⟨0#8, ack, size, data⟩) wf rest
  | frameData id ack size data =>
    obtain ⟨nz, len⟩ := Bool.and_eq_true_iff.mp wf
    exact (decodeWire_encodeFrame start (f := ⟨id, ack, size, data⟩) len rest).trans
      (congrArg (Decoded.ok · rest) (if_neg (bne_iff_ne.mp nz)))
  | frameBadStart h0 h1 h2 h3 => exact decodeWire_badStart (bne_iff_ne.mp wf) h1 h2 h3 rest
  | hostWrite data => exact decodeHost_write (of_decide_eq_true wf) rest
  | hostRead n => exact decodeHost_read n rest
  | hostReserved op =>
    obtain ⟨notWrite, notRead⟩ := Bool.and_eq_true_iff.mp wf
    exact Machine.decodeHost_of_reserved (bne_iff_ne.mp notWrite) (bne_iff_ne.mp notRead) rest
  | _ => rfl

end Sys2Proof

/-! ## One changed byte is rejected (O7)

A turn of the checksum's register can be undone, because the polynomial's top bit is set: that bit of the next register is the bit
shifted out. So two sequences that differ in one byte have different checksums, and a changed trailer is no longer the checksum. -/

namespace Sys2Proof

theorem crcBit_eq (c : U32) : crcBit c = (c >>> 1) ^^^ (if c.getLsbD 0 then crcPoly else 0#32) := by
  have low : c &&& 1#32 = 1#32 ↔ c.getLsbD 0 = true := by
    rw [BitVec.and_one_eq_setWidth_ofBool_getLsbD]
    cases c.getLsbD 0 <;> decide
  unfold crcBit
  split <;> simp_all

/-- The bit shifted out is the top bit of what comes out. -/
theorem crcBit_top (c : U32) : (crcBit c).getLsbD 31 = c.getLsbD 0 := by
  have poly : crcPoly.getLsbD 31 = true := by decide
  rw [crcBit_eq, BitVec.getLsbD_xor, BitVec.getLsbD_ushiftRight, BitVec.getLsbD_of_ge c (1 + 31) (by decide)]
  cases c.getLsbD 0 <;> simp [poly]

theorem crcBit_injective : Function.Injective crcBit := by
  intro c d h
  have low : c.getLsbD 0 = d.getLsbD 0 := by rw [← crcBit_top, h, crcBit_top]
  rw [crcBit_eq, crcBit_eq, low, BitVec.xor_left_inj] at h
  apply BitVec.eq_of_getLsbD_eq
  intro i hi
  cases i with
  | zero => exact low
  | succ i => simpa [Nat.add_comm] using congrArg (BitVec.getLsbD · i) h

theorem crcBits_injective (k : Nat) : Function.Injective (crcBits k) := by
  induction k with
  | zero => exact Function.injective_id
  | succ k ih => exact ih.comp crcBit_injective

theorem crcByte_left_injective (b : Byte) : Function.Injective (crcByte · b) :=
  fun _ _ h => (BitVec.xor_left_inj _).mp (crcBits_injective 8 h)

theorem crcByte_right_injective (c : U32) : Function.Injective (crcByte c) := by
  intro a b h
  have widened := (BitVec.xor_right_inj _).mp (crcBits_injective 8 h)
  simpa using congrArg (BitVec.setWidth 8) widened

theorem foldl_crcByte_injective (bs : List Byte) : Function.Injective (bs.foldl crcByte) := by
  induction bs with
  | nil => exact Function.injective_id
  | cons b bs ih => exact ih.comp (crcByte_left_injective b)

/-- The checksum tells two sequences apart that differ in one byte (G3 of 40_codec.md R116; log 2). -/
theorem crc32_set {bs : List Byte} {j : Nat} {b : Byte} (lt : j < bs.length) (h : crc32 (bs.set j b) = crc32 bs) :
    bs[j]? = some b := by
  have registers := (BitVec.xor_left_inj _).mp h
  rw [List.set_eq_take_append_cons_drop, if_pos lt] at registers
  nth_rw 3 [← List.take_append_drop j bs] at registers
  rw [List.drop_eq_getElem_cons lt, crc_foldl_append, crc_foldl_append] at registers
  have same := crcByte_right_injective _ (foldl_crcByte_injective _ registers)
  rw [List.getElem?_eq_getElem lt, same]

/-- Four bytes are told apart by their word (00_scope.md R11). -/
theorem be32At_injective {a b : List Byte} (ha : a.length = 4) (hb : b.length = 4) (h : be32At a 0 = be32At b 0) : a = b := by
  have written (u : List Byte) (hu : u.length = 4) : be32 (be32At u 0) = u := by
    rw [be32_be32At u 0 (by omega), List.drop_zero, ← hu, List.take_length]
  rw [← written a ha, h, written b hb]

/-- A changed byte of the header or the payload, but for the size, changes the checksum. -/
theorem decodeStream_set_body {start : Byte} {f : Frame} {j : Nat} {b : Byte} (wf : f.data.length = f.size.toNat)
    (lt : j < (frameBody start f).length) (changed : (frameBody start f)[j]? ≠ some b) (notStart : j ≠ 0) (notSize : j ≠ 3)
    (rest : List Byte) :
    decodeStream start ((frameBody start f).set j b ++ (be32 (crc32 (frameBody start f)) ++ rest)) =
      some (.checksumMismatch, 8 + f.size.toNat) := by
  have kept {k : Nat} (h : j ≠ k) : ((frameBody start f).set j b).getD k 0#8 = (frameBody start f).getD k 0#8 := by
    rw [List.getD_eq_getElem?_getD, List.getElem?_set_ne h, List.getD_eq_getElem?_getD]
  have size : ((frameBody start f).set j b).getD 3 0#8 = f.size := kept notSize
  rw [decodeStream_append (start := start) (by rw [size, List.length_set, frameBody_length, wf]) (kept notStart) (by simp),
    be32At_be32, if_neg fun same => changed (crc32_set lt same), size]

/-- A changed byte of the trailer is no longer the checksum. -/
theorem decodeStream_set_trailer {start : Byte} {f : Frame} {k : Nat} {b : Byte} (wf : f.data.length = f.size.toNat)
    (lt : k < 4) (changed : (be32 (crc32 (frameBody start f)))[k]? ≠ some b) (rest : List Byte) :
    decodeStream start (frameBody start f ++ ((be32 (crc32 (frameBody start f))).set k b ++ rest)) =
      some (.checksumMismatch, 8 + f.size.toNat) := by
  have mismatch : crc32 (frameBody start f) ≠ be32At ((be32 (crc32 (frameBody start f))).set k b ++ rest) 0 := by
    rw [be32At_append_left (by simp)]
    intro same
    have word : be32At (be32 (crc32 (frameBody start f))) 0 = crc32 (frameBody start f) := fromBe32_be32 _
    apply changed
    rw [be32At_injective (be32_length _) (by simp) (word.trans same), List.getElem?_set_self (by simpa using lt)]
  rw [decodeStream_append (start := start) (by rw [frameBody_length, wf]; rfl) rfl (by simp), if_neg mismatch]
  rfl

/-- Settles O7: a changed first byte is no start marker, a changed byte of the body changes the checksum, and a changed byte of the
trailer is compared with the checksum it was. -/
theorem oneChangedByteIsRejected : Obligations.OneChangedByteIsRejected := by
  intro start f j b rest wf lt changed
  refine ⟨?_, fun notStart notSize => ?_⟩
  · rintro rfl
    have bad : b ≠ start := fun e => changed (congrArg some e.symm)
    exact decodeStream_badStart bad _ _ _ _
  · have len : (frameBody start f).length = 4 + f.size.toNat := by rw [frameBody_length, wf]
    rw [encodeFrame] at changed ⊢
    rcases Nat.lt_or_ge j (frameBody start f).length with body | trailer
    · rw [List.getElem?_append_left body] at changed
      rw [List.set_append_left _ _ body, List.append_assoc]
      exact decodeStream_set_body wf body changed notStart notSize rest
    · rw [List.getElem?_append_right trailer] at changed
      rw [List.set_append_right _ _ trailer, List.append_assoc]
      exact decodeStream_set_trailer wf (by omega) changed rest

end Sys2Proof

/-! ## The byte-serial decoder agrees with the pure one (O8, O9, O10)

While RXD reads, the bytes of its attempt are too few for a verdict, and one byte more leaves them so or completes the verdict of the
pure decoder on all of them. The rest is induction over the bytes. -/

namespace Sys2Proof

/-- A verdict consumes at least four bytes and no more than there are: a header, or a whole frame (40_codec.md R119). -/
theorem decodeStream_consumed {start : Byte} {bs : List Byte} {v : Verdict} {n : Nat} (h : decodeStream start bs = some (v, n)) :
    n ≤ bs.length ∧ ((v = .invalidStart ∧ n = 4) ∨ (v ≠ .invalidStart ∧ n = 8 + (bs.getD 3 0#8).toNat)) := by
  unfold decodeStream at h
  split_ifs at h with short bad unfinished good <;> cases h
  · exact ⟨not_lt.mp short, .inl ⟨rfl, rfl⟩⟩
  · exact ⟨not_lt.mp unfinished, .inr ⟨nofun, rfl⟩⟩
  · exact ⟨not_lt.mp unfinished, .inr ⟨nofun, rfl⟩⟩

/-- Settles O8: of the two numbers of bytes a verdict can consume, only that of a bad start is 4. -/
theorem verdictsConsume : Obligations.VerdictsConsume := by
  intro start bs v n h
  obtain ⟨le, ⟨rfl, rfl⟩ | ⟨complete, rfl⟩⟩ := decodeStream_consumed h
  · exact ⟨by decide, le, by simp, by simp⟩
  · exact ⟨by omega, le, iff_of_false complete (by omega), fun _ => rfl⟩

/-- More bytes are needed for a header, and after a good start for the frame (R112). -/
theorem decodeStream_eq_none_iff (start : Byte) (bs : List Byte) :
    decodeStream start bs = none ↔
      bs.length < 4 ∨ (bs.getD 0 0#8 = start ∧ bs.length < 8 + (bs.getD 3 0#8).toNat) := by
  unfold decodeStream
  split_ifs <;> simp_all

theorem trailerGood_append_left {bs : List Byte} (len : 8 + (bs.getD 3 0#8).toNat ≤ bs.length) (more : List Byte) :
    trailerGood (bs ++ more) = trailerGood bs := by
  rw [trailerGood, List.getD_append _ _ _ 3 (by omega), be32At_append_left (by omega),
    List.take_append_of_le_length (by omega), trailerGood]

theorem frameAt_append_left {bs : List Byte} (len : 8 + (bs.getD 3 0#8).toNat ≤ bs.length) (more : List Byte) :
    frameAt (bs ++ more) = frameAt bs := by
  have kept {k : Nat} (lt : k < 8) : (bs ++ more).getD k 0#8 = bs.getD k 0#8 := List.getD_append _ _ _ k (by omega)
  simp only [frameAt, kept (k := 1) (by decide), kept (k := 2) (by decide), kept (k := 3) (by decide)]
  rw [List.drop_append_of_le_length (by omega), List.take_append_of_le_length (by rw [List.length_drop]; omega)]

/-- Bytes behind an attempt that has its verdict do not matter (R119). -/
theorem decodeStream_append_of_some {start : Byte} {bs : List Byte} {r : Verdict × Nat} (h : decodeStream start bs = some r)
    (more : List Byte) : decodeStream start (bs ++ more) = some r := by
  have total : (bs ++ more).length = bs.length + more.length := List.length_append
  have kept {k : Nat} (lt : k < bs.length) : (bs ++ more).getD k 0#8 = bs.getD k 0#8 := List.getD_append _ _ _ k lt
  unfold decodeStream at h ⊢
  split_ifs at h with short bad unfinished good <;> cases h
  · rw [if_neg (by omega), kept (by omega), if_pos bad]
  all_goals
    have len := not_lt.mp unfinished
    rw [if_neg (by omega), kept (by omega), if_neg bad, kept (by omega), if_neg (by omega), trailerGood_append_left len,
      frameAt_append_left len]
    simp [good]

/-- The bytes an attempt consumes are enough for its verdict. -/
theorem decodeStream_take {start : Byte} {bs : List Byte} {v : Verdict} {n : Nat} (h : decodeStream start bs = some (v, n)) :
    decodeStream start (bs.take n) = some (v, n) := by
  cases taken : decodeStream start (bs.take n) with
  | some r =>
    have whole := decodeStream_append_of_some taken (bs.drop n)
    rw [List.take_append_drop, h] at whole
    exact whole.symm
  | none =>
    obtain ⟨le, size⟩ := decodeStream_consumed h
    have len : (bs.take n).length = n := List.length_take_of_le le
    have kept {k : Nat} (lt : k < n) : (bs.take n).getD k 0#8 = bs.getD k 0#8 := by
      rw [List.getD_eq_getElem?_getD, List.getElem?_take_of_lt lt, List.getD_eq_getElem?_getD]
    rw [decodeStream_eq_none_iff, len] at taken
    rcases size with ⟨rfl, rfl⟩ | ⟨-, rfl⟩
    · obtain ⟨-, -, bad⟩ := decodeStream_invalidStart h
      rw [kept (by decide)] at taken
      rcases taken with short | ⟨first, -⟩
      · exact absurd short (by decide)
      · exact absurd first bad
    · rw [kept (k := 3) (by omega)] at taken
      omega

/-- The verdict on just enough bytes of a frame with a good start (R110). -/
theorem decodeStream_complete {start : Byte} {bs : List Byte} (first : bs.getD 0 0#8 = start)
    (full : bs.length = 8 + (bs.getD 3 0#8).toNat) :
    decodeStream start bs = some (if trailerGood bs then .frame (frameAt bs) else .checksumMismatch, bs.length) := by
  rw [decodeStream, if_neg (by omega), if_neg (not_not.mpr first), if_neg (by omega), ← full]
  split <;> rfl

namespace Machine

/-- What the decoder does at the end of an attempt (R107, R110). -/
def endAttempt : Verdict → State → State
  | .invalidStart,     s => rejectStart s
  | .checksumMismatch, s => rejectTrailer s
  | .frame f,          s => holdFrame f s

/-- One byte more: RXD keeps it where the pure decoder still needs more, and otherwise ends the attempt with the verdict on all the
bytes (40_codec.md R106-R110, R117). -/
theorem acceptByte_decodeStream (b : Byte) {s : State} (hs : s.RxOk) (reads : s.rxPhase ≠ .hold) :
    (decodeStream s.cfgStart (s.rxBuf ++ [b]) = none ∧
      ∃ p, p ≠ .hold ∧ acceptByte b s = { s with rxBuf := s.rxBuf ++ [b], rxPhase := p }) ∨
    (∃ v, decodeStream s.cfgStart (s.rxBuf ++ [b]) = some (v, s.rxBuf.length + 1) ∧ acceptByte b s = endAttempt v s) := by
  have len : (s.rxBuf ++ [b]).length = s.rxBuf.length + 1 := List.length_append
  have kept {k : Nat} (lt : k < s.rxBuf.length) : (s.rxBuf ++ [b]).getD k 0#8 = s.rxBuf.getD k 0#8 := List.getD_append _ _ _ k lt
  have needs := (decodeStream_eq_none_iff s.cfgStart (s.rxBuf ++ [b])).mpr
  unfold acceptByte
  cases hp : s.rxPhase <;> simp only [State.RxOk, hp] at hs <;> dsimp only
  case hdr =>
    split_ifs with full bad empty
    · have verdict : decodeStream s.cfgStart (s.rxBuf ++ [b]) = some (.invalidStart, 4) := by
        rw [decodeStream, if_neg (by omega), if_pos bad]
      exact .inr ⟨.invalidStart, by rw [verdict, ← len, full], rfl⟩
    · exact .inl ⟨needs (.inr ⟨not_not.mp bad, by omega⟩), .trl, nofun, rfl⟩
    · exact .inl ⟨needs (.inr ⟨not_not.mp bad, by omega⟩), .pay, nofun, rfl⟩
    · exact .inl ⟨needs (.inl (by omega)), .hdr, nofun, rfl⟩
  case pay =>
    obtain ⟨header, short, first⟩ := hs
    rw [← kept (k := 0) (by omega)] at first
    rw [← kept (k := 3) (by omega)] at short
    split_ifs
    · exact .inl ⟨needs (.inr ⟨first, by omega⟩), .trl, nofun, rfl⟩
    · exact .inl ⟨needs (.inr ⟨first, by omega⟩), .pay, nofun, rfl⟩
  case trl =>
    obtain ⟨body, short, first⟩ := hs
    rw [← kept (k := 0) (by omega)] at first
    rw [← kept (k := 3) (by omega)] at short
    split_ifs with full good
    · exact .inr ⟨.frame _, by rw [← len, decodeStream_complete first full, if_pos good], rfl⟩
    · exact .inr ⟨.checksumMismatch, by rw [← len, decodeStream_complete first full, if_neg good], rfl⟩
    · exact .inl ⟨needs (.inr ⟨first, by omega⟩), .trl, nofun, rfl⟩
  case hold => exact absurd hp reads

/-- The state after RXD has taken `k` bytes of the line and keeps those of its attempt. -/
def State.collected (s : State) (line buf : List Byte) (p : RxPhase) (k : Nat) : State :=
  { s with rxLine := line, rxBuf := buf, rxPhase := p, history := s.history ++ List.replicate k 0x80#8 }

theorem exec_rxByte {s : State} {b : Byte} {rest : List Byte} (reads : s.rxPhase ≠ .hold) (line : s.rxLine = b :: rest) :
    exec .rxByte s = .next (logStep 0x80#8 (acceptByte b { s with rxLine := rest })) := by
  rcases execRxByte_cases s with ⟨hold | empty, -⟩ | ⟨b', rest', -, line', e⟩
  · exact absurd hold reads
  · cases line.symm.trans empty
  · cases line.symm.trans line'
    exact e

/-- RX_BYTE steps on bytes that are too few for a verdict collect them. -/
theorem execTimes_rxByte_collects {tail : List Byte} (bs : List Byte) {s : State} (hs : s.RxOk) (reads : s.rxPhase ≠ .hold)
    (line : s.rxLine = bs ++ tail) (need : decodeStream s.cfgStart (s.rxBuf ++ bs) = none) :
    ∃ p, p ≠ .hold ∧ (s.collected tail (s.rxBuf ++ bs) p bs.length).RxOk ∧
      execTimes .rxByte bs.length s = .next (s.collected tail (s.rxBuf ++ bs) p bs.length) := by
  induction bs generalizing s with
  | nil =>
    have here : s.rxLine = tail := line
    have same : s.collected tail (s.rxBuf ++ []) s.rxPhase 0 = s := by simp [State.collected, ← here]
    exact ⟨s.rxPhase, reads, same.symm ▸ hs, same.symm ▸ rfl⟩
  | cons b bs ih =>
    rw [List.append_cons] at need
    rcases acceptByte_decodeStream b (s := { s with rxLine := bs ++ tail }) hs reads with ⟨-, p, hp, e⟩ | ⟨v, verdict, -⟩
    · have ok := acceptByte_rxOk b (s := { s with rxLine := bs ++ tail }) hs
      rw [e] at ok
      have one : execTimes .rxByte (b :: bs).length s =
          execTimes .rxByte bs.length (s.collected (bs ++ tail) (s.rxBuf ++ [b]) p 1) := by
        simp only [List.length_cons, execTimes, exec_rxByte reads (line.trans (List.cons_append ..)), e]
        rfl
      obtain ⟨p', hp', ok', e'⟩ := ih (s := s.collected (bs ++ tail) (s.rxBuf ++ [b]) p 1) ok hp rfl need
      have all : (s.collected (bs ++ tail) (s.rxBuf ++ [b]) p 1).collected tail (s.rxBuf ++ [b] ++ bs) p' bs.length =
          s.collected tail (s.rxBuf ++ b :: bs) p' (b :: bs).length := by
        simp [State.collected, List.replicate_succ]
      exact ⟨p', hp', all ▸ ok', one.trans (all ▸ e')⟩
    · have decided := decodeStream_append_of_some verdict bs
      cases need.symm.trans decided

/-- Settles O10: an empty buffer in phase HDR is the beginning of an attempt, and its bytes are collected. -/
theorem serialDecoderWaits : Obligations.SerialDecoderWaits := by
  intro s bs tail hdr empty need line
  have ok : s.RxOk := by simp [State.RxOk, hdr, empty]
  obtain ⟨p, hp, -, e⟩ := execTimes_rxByte_collects bs ok (by simp [hdr]) line (by rwa [empty])
  rw [empty] at e
  exact ⟨p, hp, e⟩

theorem execTimes_succ {i : Instr} {k : Nat} {s t : State} (h : execTimes i k s = .next t) :
    execTimes i (k + 1) s = exec i t := by
  induction k generalizing s with
  | zero =>
    cases h
    simp only [execTimes]
    cases exec i t <;> rfl
  | succ k ih =>
    rw [execTimes] at h ⊢
    cases first : exec i s with
    | next u =>
      rw [first] at h
      exact ih h
    | fault r => rw [first] at h; cases h
    | refused r => rw [first] at h; cases h

/-- The RX_BYTE steps on the bytes of one attempt end with its verdict: the last byte completes it, after the others have been too
few. -/
theorem execTimes_rxByte_verdict {s : State} {bs tail : List Byte} {v : Verdict} {n : Nat} (hdr : s.rxPhase = .hdr)
    (empty : s.rxBuf = []) (verdict : decodeStream s.cfgStart bs = some (v, n)) (line : s.rxLine = bs.take n ++ tail) :
    ∃ buf p k, n = k + 1 ∧
      execTimes .rxByte n s = .next (logStep 0x80#8 (endAttempt v (s.collected tail buf p k))) := by
  have ok : s.RxOk := by simp [State.RxOk, hdr, empty]
  have enough := decodeStream_take verdict
  have whole : (bs.take n).length = n := List.length_take_of_le (decodeStream_consumed verdict).1
  obtain ⟨k, rfl⟩ : ∃ k, n = k + 1 := ⟨n - 1, by have := (decodeStream_consumed verdict).2; omega⟩
  obtain ⟨pre, b, cut⟩ : ∃ pre b, bs.take (k + 1) = pre ++ [b] :=
    (List.eq_nil_or_concat' _).resolve_left (List.ne_nil_of_length_eq_add_one whole)
  rw [cut] at enough line whole
  have len : pre.length = k := by simpa using whole
  have need : decodeStream s.cfgStart pre = none := by
    cases early : decodeStream s.cfgStart pre with
    | none => rfl
    | some r =>
      cases (decodeStream_append_of_some early [b]).symm.trans enough
      have := (decodeStream_consumed early).1
      omega
  obtain ⟨p, reads, ok', e⟩ := execTimes_rxByte_collects pre ok (by simp [hdr]) (line.trans (List.append_assoc ..)) (by rwa [empty])
  rw [empty, List.nil_append, len] at e ok'
  have last : exec .rxByte (s.collected ([b] ++ tail) pre p k) =
      .next (logStep 0x80#8 (acceptByte b (s.collected tail pre p k))) := exec_rxByte reads rfl
  rcases acceptByte_decodeStream b (s := s.collected tail pre p k) ok' reads with ⟨need', -⟩ | ⟨v', verdict', e'⟩
  · cases need'.symm.trans enough
  · obtain ⟨rfl, -⟩ := Prod.mk.inj (Option.some.inj (verdict'.symm.trans enough))
    rw [e'] at last
    exact ⟨pre, p, k, rfl, (execTimes_succ e).trans last⟩

/-- Settles O9: what the end of an attempt does with each verdict, written out. -/
theorem serialDecoderAgreesWithPure : Obligations.SerialDecoderAgreesWithPure := by
  intro s bs tail v n hdr empty verdict line
  obtain ⟨buf, p, k, rfl, e⟩ := execTimes_rxByte_verdict hdr empty verdict line
  rw [e]
  cases v <;>
    simp [endAttempt, rejectStart, rejectTrailer, holdFrame, raiseErr, logStep, State.collected, hdr, empty, List.replicate_succ']

end Machine
end Sys2Proof

/-! ## The invariants make steps safe (O46), and a pending frame without an encoding faults (O29)

An instruction faults only in a hand-off of a pending frame whose size disagrees with its data, which the invariants exclude, and only
HOST_RESERVED is refused; what else a step can refuse is refused where it is fetched. -/

namespace Sys2Proof.Machine

/-- From a state with the invariants every instruction goes on, but for a reserved host opcode (40_codec.md R104, 30_encoding.md R80). -/
theorem exec_next_or_reserved (i : Instr) {s : State} (hs : s.Inv) : (∃ t, exec i s = .next t) ∨ ∃ op, i = .hostReserved op := by
  cases i with
  | hostReserved op => exact .inr ⟨op, rfl⟩
  | frameAck ack size data =>
    rcases execFrameAck_cases ack size data s with e | ⟨-, -, -, ⟨-, -, e⟩ | ⟨-, e⟩⟩ <;> exact .inl ⟨_, e⟩
  | frameData id ack size data =>
    rcases execFrameData_cases id ack size data s with e | ⟨-, -, -, -, ⟨-, -, e⟩ | ⟨-, e⟩⟩ <;> exact .inl ⟨_, e⟩
  | frameBadStart h0 h1 h2 h3 =>
    rcases execFrameBadStart_cases h0 h1 h2 h3 s with e | ⟨_, -, -, -, -, e⟩ <;> exact .inl ⟨_, e⟩
  | hostWrite data => rcases execHostWrite_cases data s with ⟨-, e⟩ | ⟨-, e⟩ <;> exact .inl ⟨_, e⟩
  | hostRead n => rcases execHostRead_cases n s with ⟨-, e⟩ | ⟨-, e⟩ <;> exact .inl ⟨_, e⟩
  | tick => rcases execTick_cases s with ⟨-, e⟩ | ⟨-, -, e⟩ <;> exact .inl ⟨_, e⟩
  | advHandoff =>
    rcases execAdvHandoff_cases s with ⟨-, e⟩ | ⟨ctl, -, e⟩
    · exact .inl ⟨_, e⟩
    · exact .inl ⟨_, e.trans (handoffThen_wf _ _ s (hs.pend.pendFrame_wf (hs.advWait ctl).1))⟩
  | advAbandon => rcases execAdvAbandon_cases s with ⟨-, e⟩ | ⟨-, -, e⟩ <;> exact .inl ⟨_, e⟩
  | resendTry =>
    rcases execResendTry_cases s with ⟨-, e⟩ | ⟨-, pend, -, e⟩ | ⟨-, -, e⟩
    · exact .inl ⟨_, e⟩
    · exact .inl ⟨_, e.trans (handoffThen_wf _ _ s (hs.pend.pendFrame_wf pend))⟩
    · exact .inl ⟨_, e⟩
  | ackHandoff => rcases execAckHandoff_cases s with ⟨-, e⟩ | ⟨-, -, e⟩ <;> exact .inl ⟨_, e⟩
  | rxByte => rcases execRxByte_cases s with ⟨-, e⟩ | ⟨_, _, -, -, e⟩ <;> exact .inl ⟨_, e⟩
  | rxIoerr => rcases execRxIoerr_cases s with ⟨-, e⟩ | ⟨-, e⟩ <;> exact .inl ⟨_, e⟩
  | txByte => rcases execTxByte_cases s with ⟨-, e⟩ | ⟨_, _, -, -, e⟩ <;> exact .inl ⟨_, e⟩
  | txErr => rcases execTxErr_cases s with ⟨-, e⟩ | ⟨-, e⟩ <;> exact .inl ⟨_, e⟩
  | tmrTick => exact .inl ⟨_, rfl⟩

/-- An illegal configuration is outside one of the ranges (70_reset_and_hazards.md R251). -/
theorem legalConfig_eq_false_iff (mtu retry : Nat) : legalConfig mtu retry = false ↔ mtu = 0 ∨ 255 < mtu ∨ retry = 0 := by
  rw [legalConfig, decide_eq_false_iff_not]
  omega

/-- What can end a step from a state with the invariants: it goes on, or one of three things is refused. -/
theorem State.Inv.step_cases {s : State} (hs : s.Inv) :
    (∃ t, step s = .next t) ∨
    (∃ op, op ≠ 0x01#8 ∧ op ≠ 0x02#8 ∧ (∃ q ∈ s.hostPort, q.cmd.head? = some op) ∧
      step s = .refused (.reservedHostOpcode op)) ∨
    (∃ mtu retry start, s.nextAct = .env (.config mtu retry start) ∧ (mtu = 0 ∨ 255 < mtu ∨ retry = 0) ∧
      step s = .refused (.illegalConfiguration mtu retry)) ∨
    (∃ b, s.nextAct = .pick (.agent b) ∧ b ∉ stepLabels ∧ step s = .refused (.unusedStepLabel b)) := by
  rcases fetch_cases s with ⟨-, -, i, u, hu, hf⟩ | ⟨-, -, u, -, hf⟩ | ⟨-, e, ag, fc, next, hf⟩ | ⟨-, b, next, hf⟩ | ⟨illegal, -⟩
  · have run : step s = exec i u := by simp only [step, hf]
    rcases exec_next_or_reserved i (hu.inv hs) with ⟨t, ht⟩ | ⟨op, rfl⟩
    · exact .inl ⟨t, run.trans ht⟩
    · obtain ⟨notWrite, notRead, port⟩ := fetch_reserved hf
      exact .inr (.inl ⟨op, notWrite, notRead, port, run⟩)
  · exact .inl ⟨u, by simp only [step, hf]⟩
  · rcases fetchEnv_cases e { s with agenda := ag, freeCtr := fc } with ⟨t, he⟩ | ⟨mtu, retry, start, rfl, illegal, he⟩
    · exact .inl ⟨t, by simp only [step, hf, he]⟩
    · exact .inr (.inr (.inl ⟨mtu, retry, start, next, (legalConfig_eq_false_iff mtu retry).mp illegal, by
        simp only [step, hf, he]⟩))
  · exact .inr (.inr (.inr ⟨b, next, fetch_unused hf, by simp only [step, hf]⟩))
  · cases ((configured_iff s).mpr hs.config).symm.trans illegal

/-- Settles O46: none of the ways a step can end is a fault. -/
theorem invariantStatesAreSafe : Obligations.InvariantStatesAreSafe := by
  intro s hs
  refine ⟨fun f fault => ?_, hs.step_cases⟩
  rcases hs.step_cases with ⟨t, e⟩ | ⟨op, -, -, -, e⟩ | ⟨mtu, retry, start, -, -, e⟩ | ⟨b, -, -, e⟩ <;>
    cases e.symm.trans fault

/-- Settles O29: both hand-offs are of the pending frame, which is ill-formed. -/
theorem unencodablePendingFaults : Obligations.UnencodablePendingFaults := by
  intro s disagrees idle
  have notWf : (pendFrame s).wf = false := Bool.eq_false_iff.mpr (mt (pendFrame_wf s).mp disagrees)
  refine ⟨fun ctl => ?_, fun ctl pend => ?_⟩
  · rcases execAdvHandoff_cases s with ⟨wait, -⟩ | ⟨-, -, e⟩
    · exact absurd ⟨ctl, idle⟩ wait
    · exact e.trans (handoffThen_not_wf _ _ s notWf)
  · rcases execResendTry_cases s with ⟨wait, -⟩ | ⟨-, -, -, e⟩ | ⟨-, skip, -⟩
    · exact absurd ctl wait
    · exact e.trans (handoffThen_not_wf _ _ s notWf)
    · exact absurd ⟨pend, idle⟩ skip

end Sys2Proof.Machine

/-! ## The checksum's values and the layout of a frame (O5, O6) -/

namespace Sys2Proof.Machine

/-- Settles O5, by running the checksum (log 2). -/
theorem crcCheckValues : Obligations.CrcCheckValues := by
  refine ⟨rfl, ?_⟩
  simp [crc32, crcByte, crcBits, crcBit, crcPoly]

/-- Settles O6: ENCODE writes its fields in that order, and the worked example is D1_HI of the vectors. -/
theorem encodeLaysOutFrame : Obligations.EncodeLaysOutFrame := by
  refine ⟨fun start f wf => ⟨rfl, (encodeFrame_length start f).trans (congrArg (8 + ·) wf)⟩, ?_⟩
  have body : frameBody 0xA5#8 ⟨1#8, 0#8, 2#8, [0x68#8, 0x69#8]⟩ = [0xA5#8, 0x01#8, 0x00#8, 0x02#8, 0x68#8, 0x69#8] := rfl
  rw [encodeFrame, body, crc32_d1Hi, be32_fromBe32]
  rfl

end Sys2Proof.Machine

/-! ## The decoder's steps one by one (O30, O31, O32) -/

namespace Sys2Proof.Machine

section RxByte

variable {s : State} {b : Byte} {rest : List Byte} (line : s.rxLine = b :: rest)

include line

/-- RX_BYTE where the decoder's part of the step is known. -/
theorem exec_rxByte_of_acceptByte {u : State} (reads : s.rxPhase ≠ .hold) (accepts : acceptByte b { s with rxLine := rest } = u) :
    exec .rxByte s = .next (logStep 0x80#8 u) :=
  accepts ▸ exec_rxByte reads line

/-- The fourth byte of a header with a good start (40_codec.md R106, R108). -/
theorem exec_rxByte_header {h1 h2 : Byte} (hdr : s.rxPhase = .hdr) (buf : s.rxBuf = [s.cfgStart, h1, h2]) :
    exec .rxByte s = .next { s with
      rxLine := rest, rxBuf := [s.cfgStart, h1, h2, b], rxPhase := if b = 0#8 then .trl else .pay,
      history := s.history ++ [0x80#8] } :=
  exec_rxByte_of_acceptByte line (by simp [hdr]) (acceptByte_header b h1 h2 { s with rxLine := rest } hdr buf)

/-- A payload byte (R108). -/
theorem exec_rxByte_pay {h0 h1 h2 h3 : Byte} {data : List Byte} (pay : s.rxPhase = .pay) (buf : s.rxBuf = [h0, h1, h2, h3] ++ data) :
    exec .rxByte s = .next { s with
      rxLine := rest, rxBuf := s.rxBuf ++ [b], rxPhase := if data.length + 1 = h3.toNat then .trl else .pay,
      history := s.history ++ [0x80#8] } :=
  exec_rxByte_of_acceptByte line (by simp [pay]) (acceptByte_pay b h0 h1 h2 h3 data { s with rxLine := rest } pay buf)

/-- The fourth trailer byte (R110). -/
theorem exec_rxByte_verdict {h0 h1 h2 h3 t0 t1 t2 : Byte} {data : List Byte} (trl : s.rxPhase = .trl)
    (len : data.length = h3.toNat) (buf : s.rxBuf = [h0, h1, h2, h3] ++ data ++ [t0, t1, t2]) :
    exec .rxByte s = .next (logStep 0x80#8
      (if crc32 ([h0, h1, h2, h3] ++ data) = fromBe32 t0 t1 t2 b then holdFrame ⟨h1, h2, h3, data⟩ { s with rxLine := rest }
       else rejectTrailer { s with rxLine := rest })) :=
  exec_rxByte_of_acceptByte line (by simp [trl])
    (acceptByte_verdict t0 t1 t2 b h0 h1 h2 h3 data { s with rxLine := rest } trl len buf)

end RxByte

/-- Settles O30: RX_BYTE ends the attempt by the decoder's byte step, FRAME_BAD_START by its own. -/
theorem badStartDiscardsHeader : Obligations.BadStartDiscardsHeader := by
  intro s h0 h1 h2 h3 rest hdr buf line bad
  constructor
  · exact exec_rxByte_of_acceptByte line (by simp [hdr]) (acceptByte_badStart h3 h0 h1 h2 _ hdr buf bad)
  · exact (if_pos ⟨hdr, buf, by rw [line]; rfl, bad⟩).trans (by rw [line]; rfl)

/-- Settles O31: the phases of the decoder's byte step, but for the trailer. -/
theorem headerAndPayloadCollected : Obligations.HeaderAndPayloadCollected := by
  intro s b rest line
  refine ⟨fun hdr short => ?_, fun h1 h2 hdr buf empty => ?_, fun h1 h2 hdr buf nonempty => ?_,
    fun h0 h1 h2 h3 data pay buf more => ?_, fun h0 h1 h2 h3 data pay buf last => ?_⟩
  · exact exec_rxByte_of_acceptByte line (by simp [hdr]) (acceptByte_hdr b _ hdr short)
  · rw [exec_rxByte_header line hdr buf, if_pos empty]
  · rw [exec_rxByte_header line hdr buf, if_neg nonempty]
  · rw [exec_rxByte_pay line pay buf, if_neg more.ne, pay]
  · rw [exec_rxByte_pay line pay buf, if_pos last]

/-- Settles O32: the trailer phase of the decoder's byte step; the example's checksum by running it (log 2). -/
theorem trailerDecidesVerdict : Obligations.TrailerDecidesVerdict := by
  refine ⟨fun s h0 h1 h2 h3 b data trailer rest trl len buf line => ⟨fun short => ?_, ?_, ?_⟩, by decide, ?_, by decide⟩
  · exact exec_rxByte_of_acceptByte line (by simp [trl]) (acceptByte_trailer b h0 h1 h2 h3 data trailer _ trl len buf short)
  · rintro t0 t1 t2 rfl bad
    rw [exec_rxByte_verdict line trl len buf, if_neg bad]
    rfl
  · rintro t0 t1 t2 rfl good
    rw [exec_rxByte_verdict line trl len buf, if_pos good]
    rfl
  · simp [crc32, crcByte, crcBits, crcBit, crcPoly]

end Sys2Proof.Machine

/-! ## The sequencer (O11, O12, O13) -/

namespace Sys2Proof.Machine

/-- Settles O11: the counter takes the next place of the cycle, which is never 0, and the run from reset is evaluated. -/
theorem seqNextReturnsAndAdvances : Obligations.SeqNextReturnsAndAdvances := by
  refine ⟨fun s => ⟨rfl, fun last => ?_, fun notLast => ?_, fun legal => ⟨legal, seqSucc_ne_zero s.seq⟩⟩, rfl, rfl, rfl, rfl⟩
  · simp only [seqNext, seqSucc, if_pos last]
  · simp only [seqNext, seqSucc, if_neg notLast]

/-! ### The cycle -/

/-- Both branches of the successor at once: counted from 0, the places 1..255 are residues modulo 255. -/
theorem seqSucc_toNat (v : Byte) : (seqSucc v).toNat = v.toNat % 255 + 1 := by
  unfold seqSucc
  split <;> bv_omega

/-- The place reached after `k` calls (41_sequencer.md R132). -/
theorem iterate_seqSucc_toNat {v : Byte} (legal : v ≠ 0#8) (k : Nat) :
    (seqSucc^[k] v).toNat = (v.toNat - 1 + k) % 255 + 1 := by
  induction k with
  | zero => rw [Function.iterate_zero_apply]; bv_omega
  | succ k ih => rw [Function.iterate_succ_apply', seqSucc_toNat, ih]; omega

/-- One value is reached from another after a count of calls that is fixed modulo 255. -/
theorem iterate_seqSucc_eq_iff {v w : Byte} (hv : v ≠ 0#8) (hw : w ≠ 0#8) (k : Nat) :
    seqSucc^[k] v = w ↔ (v.toNat + k) % 255 = w.toNat % 255 := by
  rw [← BitVec.toNat_inj, iterate_seqSucc_toNat hv]
  bv_omega

/-- Settles O12: among 255 counts of calls in a row each residue modulo 255 occurs once. -/
theorem sequenceCycles : Obligations.SequenceCycles := by
  refine ⟨fun k => ?_, fun v hv => ⟨?_, fun w hw => ?_⟩⟩
  · simpa using iterate_seqSucc_toNat (v := 1#8) (by decide) k
  · exact (iterate_seqSucc_eq_iff hv hv 255).mpr (Nat.add_mod_right _ _)
  · simp only [iterate_seqSucc_eq_iff hv hw]
    have hv' : v.toNat < 256 := v.isLt
    exact ⟨(w.toNat + 255 - v.toNat % 255) % 255, by omega, fun k hk => by omega⟩

/-! ### When the counter moves -/

/-- From `s` to `t` the counter stays, and a frame pending in `t` was pending in `s`. -/
def State.SequenceStays (s t : State) : Prop := t.seq = s.seq ∧ (t.pendV = true → s.pendV = true ∧ t.pendId = s.pendId)

/-- From `s` to `t` a new frame has taken the counter's value as its id, and the counter has moved one place. -/
def State.SequenceTaken (s t : State) : Prop := t.seq = seqSucc s.seq ∧ t.pendV = true ∧ t.pendId = s.seq ∧ t.ctl = .advWait

theorem State.SequenceStays.of_eq {s t : State} (seq : t.seq = s.seq := by rfl) (pendV : t.pendV = s.pendV := by rfl)
    (pendId : t.pendId = s.pendId := by rfl) : s.SequenceStays t :=
  ⟨seq, fun pend => ⟨pendV ▸ pend, pendId⟩⟩

/-- ADVANCE is the one caller of SeqNext, where it builds a frame (41_sequencer.md R133). What is done before it may clear the pending
frame but sets none. -/
theorem advance_sequence (r : Bool) {s u : State} (before : s.SequenceStays u) :
    s.SequenceStays (advance r u) ∨ s.SequenceTaken (advance r u) := by
  obtain ⟨seq, pend⟩ := before
  rcases advance_cases r u with ⟨-, e⟩ | ⟨-, -, e⟩ <;> rw [e]
  · exact .inl ⟨seq, pend⟩
  · exact .inr ⟨congrArg seqSucc seq, rfl, seq, rfl⟩

/-- Of an instruction's effects only the three that end in ADVANCE can move the counter. -/
theorem Effect.sequence {i : Instr} {label : Byte} {s u : State} (h : Effect s i label u) :
    s.SequenceStays u ∨ s.SequenceTaken u := by
  cases h with
  | ackMatched => exact advance_sequence false ⟨rfl, nofun⟩
  | written => exact advance_sequence false .of_eq
  | ticked => exact advance_sequence true .of_eq
  | received b rest => exact .inl (.of_eq (acceptByte_seq b _) (acceptByte_pendV b _) (acceptByte_pendId b _))
  | _ => exact .inl .of_eq

theorem exec_sequence {i : Instr} {s t : State} (h : exec i s = .next t) : s.SequenceStays t ∨ s.SequenceTaken t := by
  rcases exec_next h with rfl | ⟨label, u, hu, rfl⟩
  · exact .inl .of_eq
  · exact hu.sequence

/-- Fetching leaves the counter and the pending frame alone, and so do inputs that wait (`step_next`). -/
theorem step_sequence {s t : State} (h : step s = .next t) (noReset : s.nextResets = false) :
    s.SequenceStays t ∨ s.SequenceTaken t := by
  obtain ⟨-, ⟨-, i, u, hu, hx⟩ | ⟨-, u, hp, rl, hu, rfl⟩ | ⟨u, mtu, retry, start, -, resets, -, -⟩⟩ := step_next h
  · have moves := exec_sequence hx
    obtain ⟨ag, fc, sel, hp, rfl⟩ := hu
    exact moves
  · obtain ⟨ag, fc, sel, hp, rfl⟩ := hu
    exact .inl .of_eq
  · cases noReset.symm.trans resets

theorem step_reset_seq {s t : State} (h : step s = .next t) (resets : s.nextResets = true) : t.seq = 1#8 := by
  obtain ⟨-, ⟨noReset, -⟩ | ⟨noReset, -⟩ | ⟨u, mtu, retry, start, -, -, -, rfl⟩⟩ := step_next h
  · cases noReset.symm.trans resets
  · cases noReset.symm.trans resets
  · rfl

/-- Settles O13: an instruction moves the counter only by ADVANCE, and a reset sets it to 1. -/
theorem sequenceMovesOnlyWithNewFrames : Obligations.SequenceMovesOnlyWithNewFrames :=
  ⟨fun _ _ => step_sequence, fun _ _ => step_reset_seq, rfl⟩

end Sys2Proof.Machine

/-! ## What a step does to the outbound stream, and the pending frame (O47)

A step adds to what waits, or moves the front of it into a new pending frame, or takes an acknowledgment of the pending frame: the one
way a pending frame goes. -/

namespace Sys2Proof.Machine

/-- From `s` to `t` these bytes are written, and stand at the end of what is not acknowledged. -/
def State.Writes (s t : State) (data : List Byte) : Prop :=
  t.obsWritten = s.obsWritten ++ data ∧ t.unacknowledged = s.unacknowledged ++ data

/-- What a step from `s` to `t` can do to the frames an end sends (42_state_machine.md R145, R150). -/
inductive SenderStep (s t : State) : Prop
  /-- No frame is built or acknowledged. -/
  | keeps (data : List Byte) (seq : t.seq = s.seq) (pendV : t.pendV = s.pendV) (frame : pendFrame t = pendFrame s)
      (writes : s.Writes t data)
  /-- A frame becomes pending where none was. -/
  | builds (data : List Byte) (noPend : s.pendV = false) (seq : t.seq = seqSucc s.seq) (pendV : t.pendV = true)
      (id : t.pendId = s.seq) (writes : s.Writes t data)
  /-- The held acknowledgment of the pending frame is taken, and the next frame may be built at once. -/
  | acknowledged (pendV : s.pendV = true) (ctl : s.ctl = .loop) (rx : s.rxPhase = .hold) (ackClass : s.rxHold.id = 0#8)
      (ack : s.rxHold.ack = s.pendId) (taken : t.rxPhase = .hdr) (written : t.obsWritten = s.obsWritten)
      (payload : s.unacknowledged = s.pendData ++ t.unacknowledged)
      (next : (t.seq = s.seq ∧ t.pendV = false) ∨ (t.seq = seqSucc s.seq ∧ t.pendV = true ∧ t.pendId = s.seq))

/-- Nothing is written where no reply is given and the outbound stream stays. -/
theorem State.Writes.of_eq {s t : State} (replies : t.replies = s.replies := by rfl) (pendV : t.pendV = s.pendV := by rfl)
    (pendData : t.pendData = s.pendData := by rfl) (ob : t.ob = s.ob := by rfl) : s.Writes t [] := by
  simp [State.Writes, State.obsWritten, replies, unacknowledged_congr pendV pendData ob]

/-- ADVANCE after the step's own part, which leaves the pending frame alone. -/
theorem advance_senderStep (r : Bool) {s u : State} {data : List Byte} (writes : s.Writes u data) (seq : u.seq = s.seq := by rfl)
    (pendV : u.pendV = s.pendV := by rfl) (frame : pendFrame u = pendFrame s := by rfl) : SenderStep s (advance r u) := by
  have writes' : s.Writes (advance r u) data :=
    ⟨by simpa [State.obsWritten] using writes.1, (advance_unacknowledged r u).trans writes.2⟩
  rcases advance_cases r u with ⟨-, e⟩ | ⟨noPend, -, e⟩ <;> rw [e] at writes' ⊢
  · exact .keeps data seq pendV frame writes'
  · exact .builds data (pendV ▸ noPend) (congrArg seqSucc seq) rfl seq writes'

/-- What an instruction does where it does not wait; the steps not named leave the frames an end sends alone. -/
theorem Effect.senderStep {i : Instr} {label : Byte} {s u : State} (h : Effect s i label u) : SenderStep s u := by
  cases h with
  | ackMatched ack size data ctl rx held pend id =>
    refine .acknowledged pend ctl rx (by rw [held]) (by rw [held, id]) (by simp) (by simp [State.obsWritten])
      (unacknowledged_ackMatched pend) ?_
    rcases advance_cases false { s with rxPhase := .hdr, pendV := false } with ⟨-, e⟩ | ⟨-, -, e⟩ <;> rw [e]
    · exact .inl ⟨rfl, rfl⟩
    · exact .inr ⟨rfl, rfl, rfl⟩
  | written data =>
    exact advance_senderStep (data := data) false
      ⟨by simp [State.obsWritten, Reply.writtenData], (List.append_assoc _ _ _).symm⟩
  | read n => exact .keeps [] rfl rfl rfl ⟨by simp [State.obsWritten, Reply.writtenData], (List.append_nil _).symm⟩
  | ticked => exact advance_senderStep true .of_eq
  | received b rest => exact .keeps [] (by simp) (by simp) (by simp [pendFrame]) (.of_eq (by simp) (by simp) (by simp) (by simp))
  | _ => exact .keeps [] rfl rfl rfl .of_eq

/-- The history is no part of it. -/
theorem SenderStep.logStep {s t : State} (h : SenderStep s t) (label : Byte) : SenderStep s (logStep label t) := by
  cases h with
  | keeps data seq pendV frame writes => exact .keeps data seq pendV frame writes
  | builds data noPend seq pendV id writes => exact .builds data noPend seq pendV id writes
  | acknowledged pendV ctl rx ackClass ack taken written payload next =>
    exact .acknowledged pendV ctl rx ackClass ack taken written payload next

/-- What fetching writes is no part of it. -/
theorem Refetched.senderStep {s u t : State} (hu : Refetched s u) (h : SenderStep u t) : SenderStep s t := by
  obtain ⟨ag, fc, sel, hp, rfl⟩ := hu
  cases h with
  | keeps data seq pendV frame writes => exact .keeps data seq pendV frame writes
  | builds data noPend seq pendV id writes => exact .builds data noPend seq pendV id writes
  | acknowledged pendV ctl rx ackClass ack taken written payload next =>
    exact .acknowledged pendV ctl rx ackClass ack taken written payload next

theorem SenderStep.of_exec {i : Instr} {s t : State} (h : exec i s = .next t) : SenderStep s t := by
  rcases exec_next h with rfl | ⟨label, u, hu, rfl⟩
  · exact .keeps [] rfl rfl rfl .of_eq
  · exact hu.senderStep.logStep label

theorem step_senderStep {s t : State} (h : step s = .next t) (noReset : s.nextResets = false) : SenderStep s t := by
  obtain ⟨-, ⟨-, i, u, hu, hx⟩ | ⟨-, u, hp, rl, hu, rfl⟩ | ⟨u, mtu, retry, start, -, resets, -, -⟩⟩ := step_next h
  · exact hu.senderStep (.of_exec hx)
  · obtain ⟨ag, fc, sel, hp, rfl⟩ := hu
    exact .keeps [] rfl rfl rfl .of_eq
  · cases noReset.symm.trans resets

/-- Settles O47: a step without an acknowledgment of the pending frame keeps that frame, for none is built while one is pending. -/
theorem pendingFrameNeverAbandoned : Obligations.PendingFrameNeverAbandoned := by
  intro s t h noReset pend
  cases step_senderStep h noReset with
  | keeps data seq pendV frame writes =>
    obtain ⟨id, -, size, payload⟩ := Frame.mk.inj frame
    exact .inl ⟨pendV.trans pend, id, size, payload⟩
  | builds data noPend => cases noPend.symm.trans pend
  | acknowledged pendV ctl rx ackClass ack taken => exact .inr ⟨ctl, rx, ackClass, ack, taken⟩

end Sys2Proof.Machine

/-! ## The FSM's steps one by one (O18, O19, O22 to O28)

Each statement is a step's outcome where it is enabled, with ADVANCE and the hand-off written out. -/

namespace Sys2Proof.Machine

/-- Settles O18: HOST_WRITE in LOOP ends in ADVANCE(0). -/
theorem hostWriteAppendsAndAdvances : Obligations.HostWriteAppendsAndAdvances := by
  intro s data ctl
  rcases execHostWrite_cases data s with ⟨wait, -⟩ | ⟨-, e⟩
  · exact absurd ctl wait
  refine ⟨fun quiet => e.trans ?_, fun noPend waiting => e.trans ?_, rfl, fun len => Nat.mod_eq_of_lt len⟩
  · rw [advance_idle false _ quiet]
    simp [continueTo, replyWrote, logStep, ctl]
  · rw [advance_build false (replyWrote data { s with ob := s.ob ++ data }) noPend waiting]
    rfl

/-- Settles O19: HOST_READ in LOOP. -/
theorem hostReadDrainsFront : Obligations.HostReadDrainsFront := by
  intro s n ctl
  rcases execHostRead_cases n s with ⟨wait, -⟩ | ⟨-, e⟩
  · exact absurd ctl wait
  · exact ⟨e, by simp [Reply.bytes]⟩

/-- In LOOP a held acknowledgment frame is taken, and is the pending frame's or is ignored (42_state_machine.md R145). -/
theorem exec_frameAck_held {s : State} {ack size : Byte} {data : List Byte} (ctl : s.ctl = .loop) (hold : s.rxPhase = .hold)
    (held : s.rxHold = ⟨0#8, ack, size, data⟩) :
    (s.pendV = true → s.pendId = ack → exec (.frameAck ack size data) s =
      .next (logStep 0x10#8 (advance false { s with rxPhase := .hdr, pendV := false }))) ∧
    (s.pendV = false ∨ s.pendId ≠ ack →
      exec (.frameAck ack size data) s = .next (logStep 0x10#8 { s with rxPhase := .hdr })) := by
  have take : canTake (.frameAck ack size data) s = true := (canTake_iff _ s).mpr ⟨ctl, hold, held ▸ rfl⟩
  simp only [exec, execFrameAck, if_pos take]
  refine ⟨fun pend id => ?_, fun other => ?_⟩
  · have answers : ackMatches ack { s with rxPhase := .hdr } = true := by simp [ackMatches, pend, id]
    rw [if_pos answers]
  · have ignored : ¬ackMatches ack { s with rxPhase := .hdr } = true := by
      rcases other with h | h <;> simp [ackMatches, h]
    rw [if_neg ignored, ← ctl]

/-- Settles O22: where the acknowledgment is the pending frame's, ADVANCE(0) runs with no frame pending. -/
theorem ackClearsPendingAndAdvances : Obligations.AckClearsPendingAndAdvances := by
  intro s ack size data ctl hold held
  obtain ⟨answers, ignored⟩ := exec_frameAck_held ctl hold held
  refine ⟨fun pend id empty => (answers pend id).trans ?_, fun pend id waiting => (answers pend id).trans ?_, ignored,
    fun pendOk zero => ignored ?_⟩
  · rw [advance_idle false { s with rxPhase := .hdr, pendV := false } (.inr empty)]
    simp [continueTo, logStep, ctl]
  · rw [advance_build false { s with rxPhase := .hdr, pendV := false } rfl waiting]
    rfl
  · cases pend : s.pendV
    · exact .inl rfl
    · exact .inr fun id => (pendOk pend).1 (id.trans zero)

/-- Settles O23: FRAME_DATA's two branches. -/
theorem dataFrameAcceptedOnce : Obligations.DataFrameAcceptedOnce := by
  intro s id ack size data ctl hold held nz
  have take : canTake (.frameData id ack size data) s = true :=
    (canTake_iff _ s).mpr ⟨ctl, hold, (toInstr_eq_frameData _ _ _ _ _).mpr ⟨held, nz⟩⟩
  simp only [exec, execFrameData, if_pos take]
  refine ⟨fun lastV last => ?_, fun new => ?_⟩
  · have duplicate : isDuplicate id { s with rxPhase := .hdr } = true := by simp [isDuplicate, lastV, last]
    rw [if_pos duplicate]
    rfl
  · have notDuplicate : ¬isDuplicate id { s with rxPhase := .hdr } = true := by
      rcases new with h | h <;> simp [isDuplicate, h]
    rw [if_neg notDuplicate]
    rfl

/-- Settles O24: ACK_HANDOFF with TXD idle, and with TXD busy. -/
theorem ackHandoffSendsAck : Obligations.AckHandoffSendsAck := by
  intro s ctl
  rcases execAckHandoff_cases s with ⟨wait, e⟩ | ⟨-, idle, e⟩
  · exact ⟨fun idle => absurd ⟨ctl, idle⟩ wait, fun _ => e⟩
  · exact ⟨fun _ => e, fun busy => by cases idle.symm.trans busy⟩

/-- Settles O25: TICK in LOOP ends in ADVANCE(1). -/
theorem tickAdvancesThenResends : Obligations.TickAdvancesThenResends := by
  intro s ctl tick
  rcases execTick_cases s with ⟨wait, -⟩ | ⟨-, -, e⟩
  · exact absurd ⟨ctl, tick⟩ wait
  have quiet (h : s.pendV = true ∨ s.ob = []) :
      exec .tick s = .next { s with tickP := false, ctl := .resendTry, history := s.history ++ [0x20#8] } :=
    e.trans (by rw [advance_idle true { s with tickP := false } h]; rfl)
  refine ⟨quiet, fun noPend waiting => e.trans ?_, fun idleOk => quiet ?_⟩
  · rw [advance_build true { s with tickP := false } noPend waiting]
    rfl
  · cases pend : s.pendV
    · exact .inr (idleOk pend)
    · exact .inl rfl

/-- Settles O26: RESEND_TRY hands the pending frame over where both conditions hold, and skips where one does not. -/
theorem resendTryHandsOverOrSkips : Obligations.ResendTryHandsOverOrSkips := by
  intro s ctl
  rcases execResendTry_cases s with ⟨wait, -⟩ | ⟨-, pend, idle, e⟩ | ⟨-, skip, e⟩
  · exact absurd ctl wait
  · refine ⟨fun _ _ len => e.trans (handoffThen_wf _ _ s ((pendFrame_wf s).mpr len)), ?_⟩
    rintro (noPend | busy)
    · cases noPend.symm.trans pend
    · cases busy.symm.trans idle
  · exact ⟨fun pend idle => absurd ⟨pend, idle⟩ skip, fun _ => e⟩

/-- ADV_HANDOFF where it is enabled and the pending frame has an encoding (42_state_machine.md R151). -/
theorem exec_advHandoff {s : State} (ctl : s.ctl = .advWait) (idle : s.txBusy = false)
    (len : s.pendData.length = s.pendSize.toNat) : exec .advHandoff s = .next (logStep 0x30#8 (continueTo s.ret
      { s with txQ := encodeFrame s.cfgStart (pendFrame s), txBusy := true })) := by
  rcases execAdvHandoff_cases s with ⟨wait, -⟩ | ⟨-, -, e⟩
  · exact absurd ⟨ctl, idle⟩ wait
  · exact e.trans (handoffThen_wf _ _ s ((pendFrame_wf s).mpr len))

/-- Settles O27: CONTINUE goes where S.RET says. -/
theorem advHandoffSendsNewFrame : Obligations.AdvHandoffSendsNewFrame := by
  intro s ctl len
  refine ⟨fun idle ret => ?_, fun idle ret => ?_⟩ <;>
  · rw [exec_advHandoff ctl idle len, ret]
    simp [continueTo, logStep, pendFrame]

/-- Settles O28: CONTINUE again, with the tick consumed; ADV_HANDOFF does not touch the tick. -/
theorem tickAbandonsHandoff : Obligations.TickAbandonsHandoff := by
  intro s ctl tick
  rcases execAdvAbandon_cases s with ⟨wait, -⟩ | ⟨-, -, e⟩
  · exact absurd ⟨ctl, tick⟩ wait
  refine ⟨fun ret => e.trans ?_, fun ret => e.trans ?_, fun idle len => ⟨_, exec_advHandoff ctl idle len, tick, rfl, ?_⟩⟩
  · rw [ret]; simp [continueTo, logStep]
  · rw [ret]; simp [continueTo, logStep]
  · cases s.ret <;> simp

end Sys2Proof.Machine

/-! ## A step that is not enabled changes nothing (O21) -/

namespace Sys2Proof.Machine

/-- Outside LOOP a complete command at the host port is fetched where it stands, and waits there (42_state_machine.md R141). -/
theorem step_serve_waits {s : State} {more : List Act} {k : Nat} {q : HostReq} {i : Instr} {rest : List Byte}
    (notLoop : s.ctl ≠ .loop) (hc : s.configured = true) (ha : s.agenda = .pick (.serve k) :: more)
    (place : s.hostPort[k]? = some q) (decodes : decodeHost q.cmd = .ok i rest) (serviced : i.label ≠ none) :
    step s = .next { s with agenda := more } := by
  have busy : ¬fsmReady { s with agenda := more } = true := by simpa [fsmReady] using notLoop
  have notLoop' : ({ s with agenda := more } : State).ctl ≠ .loop := notLoop
  have run : step s = exec i { s with agenda := more } := by
    have fetched := (fetch_agenda hc ha).trans (fetchHost_run (s := { s with agenda := more }) place decodes)
    rw [if_neg busy] at fetched
    simp only [step, fetched]
  rw [run]
  obtain ⟨port, -, -⟩ := decodeHost_encodes 0#8 decodes
  cases i with
  | hostWrite data => exact ((execHostWrite_cases data _).resolve_right fun h => notLoop' h.1).2
  | hostRead n => exact ((execHostRead_cases n _).resolve_right fun h => notLoop' h.1).2
  | hostReserved op => exact absurd rfl serviced
  | _ => cases port

/-- Where the FSM is not in LOOP or RXD holds no frame, neither kind of frame is taken (R144). -/
theorem exec_frame_waits {s : State} (h : s.ctl ≠ .loop ∨ s.rxPhase ≠ .hold) :
    (∀ ack size data, exec (.frameAck ack size data) s = .next s) ∧
    (∀ id ack size data, exec (.frameData id ack size data) s = .next s) := by
  refine ⟨fun ack size data => ?_, fun id ack size data => ?_⟩
  · exact (execFrameAck_cases ack size data s).resolve_right fun ⟨ctl, hold, _⟩ => h.elim (· ctl) (· hold)
  · exact (execFrameData_cases id ack size data s).resolve_right fun ⟨ctl, hold, _⟩ => h.elim (· ctl) (· hold)

theorem exec_tick_waits {s : State} (h : ¬(s.ctl = .loop ∧ s.tickP = true)) : exec .tick s = .next s :=
  ((execTick_cases s).resolve_right fun ⟨ctl, tick, _⟩ => h ⟨ctl, tick⟩).2

/-- Settles O21: each step waits where its enabling condition fails. -/
theorem stepsWaitWhereNotEnabled : Obligations.StepsWaitWhereNotEnabled := by
  refine ⟨fun s notLoop => ⟨fun data => ?_, fun n => ?_, (exec_frame_waits (.inl notLoop)).1,
    (exec_frame_waits (.inl notLoop)).2, exec_tick_waits fun h => notLoop h.1, fun more k q i rest hc ha place decodes =>
    step_serve_waits notLoop hc ha place decodes⟩, fun s => ⟨fun notHeld => exec_frame_waits (.inr notHeld),
    fun noTick => exec_tick_waits (by simp [noTick]), fun h => ?_, fun h => ?_, fun h => ?_, fun h => ?_, fun h => ?_, fun h => ?_,
    fun h => ?_, fun h => ?_⟩⟩
  · exact ((execHostWrite_cases data s).resolve_right fun h => notLoop h.1).2
  · exact ((execHostRead_cases n s).resolve_right fun h => notLoop h.1).2
  · exact ((execAdvHandoff_cases s).resolve_right fun ⟨ctl, idle, _⟩ => by simp [ctl, idle] at h).2
  · exact ((execAdvAbandon_cases s).resolve_right fun ⟨ctl, tick, _⟩ => by simp [ctl, tick] at h).2
  · rcases execResendTry_cases s with ⟨-, e⟩ | ⟨ctl, -⟩ | ⟨ctl, -⟩
    · exact e
    · exact absurd ctl h
    · exact absurd ctl h
  · exact ((execAckHandoff_cases s).resolve_right fun ⟨ctl, idle, _⟩ => by simp [ctl, idle] at h).2
  · exact ((execRxByte_cases s).resolve_right fun ⟨_, _, reads, line, _⟩ => by simp [reads, line] at h).2
  · exact ((execRxIoerr_cases s).resolve_right fun ⟨reads, _⟩ => reads h).2
  · exact ((execTxByte_cases s).resolve_right fun ⟨_, _, busy, queue, _⟩ => by simp [busy, queue] at h).2
  · exact ((execTxErr_cases s).resolve_right fun ⟨busy, _⟩ => by simp [busy] at h).2

end Sys2Proof.Machine

/-! ## A step runs the instruction decoded where it stands (O40)

What a pick fetches is known where the label, the command, the held frame or the offered byte is; the step is then the agenda's entry
taken off and the instruction run. -/

namespace Sys2Proof.Machine

/-- A pick of the agenda that fetches an instruction runs it. -/
theorem step_pick_run {s u : State} {p : Pick} {i : Instr} {more : List Act} (hc : s.configured = true)
    (ha : s.agenda = .pick p :: more) (run : fetchPick p { s with agenda := more } = .run i u) : step s = exec i u := by
  simp only [step, fetch_agenda hc ha, fetchAct, run]

/-- A pick of the agenda that fetches none is taken off it. -/
theorem step_pick_done {s : State} {p : Pick} {more : List Act} (hc : s.configured = true) (ha : s.agenda = .pick p :: more)
    (done : fetchPick p { s with agenda := more } = .done { s with agenda := more }) : step s = .next { s with agenda := more } := by
  simp only [step, fetch_agenda hc ha, fetchAct, done]

/-- A label that decodes is a row of the table (30_encoding.md R81). -/
theorem mem_labelTable_of_decodeLabel {b : Byte} {i : Instr} {rest : List Byte} (decodes : decodeLabel [b] = .ok i rest) :
    (b, i) ∈ labelTable := by
  simp only [decodeLabel] at decodes
  split at decodes
  next found => cases decodes; exact mem_labelTable_of_lookup found
  · split_ifs at decodes

/-- The row of RX_BYTE's label. -/
theorem labelTable_rxByte {i : Instr} (row : (0x80#8, i) ∈ labelTable) : i = .rxByte := by
  simpa [labelTable] using row

/-- The label of a host command is that of HOST_WRITE or HOST_READ (R81). -/
theorem label_of_hostPort {i : Instr} {b : Byte} (port : i.port = .host) (label : i.label = some b) : b = 0x01#8 ∨ b = 0x02#8 := by
  cases i <;> simp_all [Instr.port, Instr.label]

/-- The label of a held frame is that of RX_ACK or RX_DATA (R81). -/
theorem label_of_toInstr {f : Frame} {b : Byte} (label : f.toInstr.label = some b) : b = 0x10#8 ∨ b = 0x11#8 := by
  unfold Frame.toInstr at label
  split at label <;> cases label
  · exact .inl rfl
  · exact .inr rfl

/-- The labels of the host operations look at the first command of the port. -/
theorem fetchPick_hostLabel {b : Byte} (host : b = 0x01#8 ∨ b = 0x02#8) (s : State) :
    fetchPick (.agent b) s = ofLabel b s (fetchHost 0 s) := if_pos host

/-- The labels of RX_ACK and RX_DATA look at the held frame. -/
theorem fetchPick_heldLabel {b : Byte} (held : b = 0x10#8 ∨ b = 0x11#8) (s : State) :
    fetchPick (.agent b) s = ofLabel b s (fetchHeld s) := by
  rcases held with rfl | rfl <;> rfl

theorem ofLabel_same {b : Byte} {i : Instr} (label : i.label = some b) (s u : State) : ofLabel b s (.run i u) = .run i u :=
  if_pos label

theorem ofLabel_other {b : Byte} {i : Instr} (label : i.label ≠ some b) (s u : State) : ofLabel b s (.run i u) = .done s :=
  if_neg label

/-- A command is fetched by its place or, if it is the first, by its label. -/
theorem fetchPick_command {s : State} {p : Pick} {k : Nat} {q : HostReq} {i : Instr} {rest : List Byte}
    (names : p = .serve k ∨ (k = 0 ∧ ∃ b, i.label = some b ∧ p = .agent b)) (place : s.hostPort[k]? = some q)
    (decodes : decodeHost q.cmd = .ok i rest) :
    fetchPick p s = .run i (if fsmReady s then grantHost k q rest s else s) := by
  have fetched := fetchHost_run place decodes
  rcases names with rfl | ⟨rfl, b, label, rfl⟩
  · exact fetched
  · rw [fetchPick_hostLabel (label_of_hostPort (decodeHost_encodes 0#8 decodes).1 label), fetched, ofLabel_same label]

/-- The held frame is fetched as such or by its label (42_state_machine.md R144). -/
theorem fetchPick_held {s : State} {p : Pick} (names : p = .take ∨ ∃ b, s.rxHold.toInstr.label = some b ∧ p = .agent b)
    (hold : s.rxPhase = .hold) : fetchPick p s = .run s.rxHold.toInstr s := by
  have fetched : fetchHeld s = .run s.rxHold.toInstr s := if_pos hold
  rcases names with rfl | ⟨b, label, rfl⟩
  · exact fetched
  · rw [fetchPick_heldLabel (label_of_toInstr label), fetched, ofLabel_same label]

/-- Where the first command has another label, or there is none, nothing is fetched. -/
theorem fetchPick_hostLabel_done {s : State} {b : Byte} (host : b = 0x01#8 ∨ b = 0x02#8)
    (other : ∀ q i rest, s.hostPort.head? = some q → decodeHost q.cmd = .ok i rest → i.label ≠ some b) :
    fetchPick (.agent b) s = .done s := by
  rw [fetchPick_hostLabel host]
  cases first : s.hostPort[0]? with
  | none => simp only [fetchHost, first, ofLabel]
  | some q =>
    cases decodes : decodeHost q.cmd with
    | reject r => simp only [fetchHost, first, decodes, ofLabel]
    | ok i rest =>
      rw [fetchHost_run first decodes]
      exact ofLabel_other (other q i rest (List.head?_eq_getElem?.trans first) decodes) _ _

/-- Where the held frame has another label, or there is none, nothing is fetched. -/
theorem fetchPick_heldLabel_done {s : State} {b : Byte} (held : b = 0x10#8 ∨ b = 0x11#8)
    (other : s.rxPhase = .hold → s.rxHold.toInstr.label ≠ some b) : fetchPick (.agent b) s = .done s := by
  rw [fetchPick_heldLabel held]
  rcases fetchHeld_cases s with e | ⟨hold, e⟩ <;> rw [e]
  · rfl
  · exact ofLabel_other (other hold) _ _

/-- Settles O40: each clause by what its pick fetches. -/
theorem stepRunsDecodedInstruction : Obligations.StepRunsDecodedInstruction := by
  refine ⟨fun s b i more hc ha decodes notRx => ?_, fun s p k q i rest more names hc ha place decodes => ?_,
    fun s p i bs more names hc ha hold decodes encodes wf => ?_,
    fun s b more hc ha => ⟨fun host other => ?_, fun held other => ?_⟩,
    fun s b line more hc ha offered => ⟨fun h0 h1 h2 hdr buf bad => ?_, fun good => ?_⟩⟩
  · have row := mem_labelTable_of_decodeLabel decodes
    exact step_pick_run hc ha (fetchPick_label _ b i row fun e => notRx (labelTable_rxByte (e ▸ row)))
  · have run := step_pick_run hc ha (fetchPick_command (s := { s with agenda := more }) names place decodes)
    refine ⟨fun ctl last => ?_, fun ctl notLast => ?_, fun notLoop => ?_⟩ <;> rw [run]
    · have ready : fsmReady { s with agenda := more } = true := beq_iff_eq.mpr ctl
      rw [if_pos ready, grantHost, if_pos last]
    · have ready : fsmReady { s with agenda := more } = true := beq_iff_eq.mpr ctl
      rw [if_pos ready, grantHost, if_neg notLast]
    · have busy : ¬fsmReady { s with agenda := more } = true := by simpa [fsmReady] using notLoop
      rw [if_neg busy]
  · have frame : i = s.rxHold.toInstr := by
      have readBack := decodeWire_encodeFrame s.cfgStart wf []
      rw [List.append_nil, encodes] at readBack
      cases decodes.symm.trans readBack
      rfl
    subst frame
    exact step_pick_run hc ha (fetchPick_held (s := { s with agenda := more }) names hold)
  · exact step_pick_done hc ha (fetchPick_hostLabel_done host other)
  · exact step_pick_done hc ha (fetchPick_heldLabel_done held other)
  · exact step_pick_run hc ha (fetchByte_badStart hdr buf offered bad)
  · have notBad : badHeader { s with agenda := more } = false := by simpa [badHeader, or_iff_not_imp_left] using good
    exact step_pick_run hc ha (fetchByte_rxByte notBad)

end Sys2Proof.Machine

/-! ## The FSM always comes back to LOOP (O42) -/

namespace Sys2Proof.Machine

/-- Settles O42: RESEND_TRY cannot fault, because a pending frame has an encoding, and a tick enables ADV_ABANDON, whose continuation
is LOOP by R36 (vii). -/
theorem tickEndsAdvWait : Obligations.TickEndsAdvWait := by
  intro s hs
  refine ⟨fun ctl => ?_, fun ctl => ?_⟩
  · rcases execResendTry_cases s with ⟨wait, -⟩ | ⟨-, pend, -, e⟩ | ⟨-, -, e⟩
    · exact absurd ctl wait
    · exact ⟨_, e.trans (handoffThen_wf _ _ s (hs.pend.pendFrame_wf pend)), rfl⟩
    · exact ⟨_, e, rfl⟩
  · obtain ⟨pend, ret⟩ := hs.advWait ctl
    rcases execAdvAbandon_cases { s with tickP := true, tmrPhase := s.cfgRetry, history := s.history ++ [0xA0#8] } with
      ⟨wait, -⟩ | ⟨-, -, e⟩
    · exact absurd ⟨ctl, rfl⟩ wait
    · exact ⟨_, _, rfl, e, by simp [ret], rfl, pend, rfl, rfl⟩

end Sys2Proof.Machine

/-! ## A write goes out in frames of MTU bytes (O53)

A block that is about to hand over the next frame of a write is described by the bytes that are left, the pending ones included. A
round takes the first MTU of them away. -/

namespace Sys2Proof.Machine

/-- The block waits to hand over a frame with this id, the front of the bytes `data` of a write that are left. -/
structure State.Sending (s : State) (mtu : Byte) (data : List Byte) (id : Byte) : Prop where
  ctl     : s.ctl = .advWait
  ret     : s.ret = false
  idle    : s.txBusy = false
  config  : s.cfgMtu = mtu
  pendV   : s.pendV = true
  pendId  : s.pendId = id
  payload : s.pendData = data.take mtu.toNat
  size    : s.pendData.length = s.pendSize.toNat
  ob      : s.ob = data.drop mtu.toNat
  seq     : s.seq = seqSucc id

/-- ADVANCE(0) with an idle TXD and bytes to send (42_state_machine.md R150). -/
theorem buildFrame_sending {s : State} (legal : s.cfgMtu ≠ 0#8) (idle : s.txBusy = false) (ob : s.ob ≠ []) :
    (buildFrame false s).Sending s.cfgMtu s.ob s.seq := by
  obtain ⟨-, -, leOb, size⟩ := advanceCount_bounds s legal ob
  have payload : (buildFrame false s).pendData = s.ob.take s.cfgMtu.toNat := List.take_eq_take_min.symm
  have rest : (buildFrame false s).ob = s.ob.drop s.cfgMtu.toNat := by
    rw [buildFrame_ob, advanceCount]
    rcases Nat.le_total s.cfgMtu.toNat s.ob.length with h | h
    · rw [Nat.min_eq_left h]
    · rw [Nat.min_eq_right h, List.drop_length, List.drop_of_length_le h]
  exact ⟨rfl, rfl, idle, rfl, rfl, rfl, payload, by simp [size, leOb], rest, rfl⟩

theorem State.Sending.logStep {s : State} {mtu : Byte} {data : List Byte} {id : Byte} (h : s.Sending mtu data id) (label : Byte) :
    (logStep label s).Sending mtu data id := { h with }

/-- Where a round's acknowledgment is taken: the frame is sent whole, and RXD holds the acknowledgment of it. -/
def State.exchanged (t : State) : State :=
  { t with txBusy := false, txQ := [], obsTx := t.obsTx ++ t.txQ, rxPhase := .hold, rxHold := ⟨0#8, t.pendId, 0#8, []⟩ }

theorem ackRound_of_handoff {s t : State} (h : exec .advHandoff s = .next t) :
    ackRound s = exec (.frameAck t.pendId 0#8 []) t.exchanged := by
  simp only [ackRound, h, State.exchanged]

/-- A round ends in ADVANCE(0) with the frame cleared, from a state that differs in the transmitter, the receiver and the
observation only. -/
theorem ackRound_of_sending {s : State} {mtu : Byte} {data : List Byte} {id : Byte} (h : s.Sending mtu data id) :
    ∃ u : State, ackRound s = .next (logStep 0x10#8 (advance false u)) ∧ u.pendV = false ∧ u.cfgMtu = mtu ∧
      u.txBusy = false ∧ u.ob = data.drop mtu.toNat ∧ u.seq = seqSucc id := by
  obtain ⟨t, handoff, ctl, config, pendV, ob, seq⟩ : ∃ t, exec .advHandoff s = .next t ∧ t.ctl = .loop ∧ t.cfgMtu = mtu ∧
      t.pendV = true ∧ t.ob = data.drop mtu.toNat ∧ t.seq = seqSucc id :=
    ⟨_, exec_advHandoff h.ctl h.idle h.size, by simp [h.ret], h.config, h.pendV, h.ob, h.seq⟩
  have taken := (exec_frameAck_held (s := t.exchanged) ctl rfl rfl).1 pendV rfl
  exact ⟨_, (ackRound_of_handoff handoff).trans taken, rfl, config, rfl, ob, seq⟩

/-- A round with bytes left hands over the next frame. -/
theorem ackRound_sending {s : State} {mtu : Byte} {data : List Byte} {id : Byte} (legal : mtu ≠ 0#8) (h : s.Sending mtu data id)
    (more : data.drop mtu.toNat ≠ []) :
    ∃ u, ackRound s = .next u ∧ u.Sending mtu (data.drop mtu.toNat) (seqSucc id) := by
  obtain ⟨u, e, noPend, rfl, idle, ob, seq⟩ := ackRound_of_sending h
  rw [← ob] at more
  have next := buildFrame_sending legal idle more
  rw [advance_build false u noPend more] at e
  exact ⟨_, e, (ob ▸ seq ▸ next).logStep _⟩

/-- A round with none left ends the write. -/
theorem ackRound_last {s : State} {mtu : Byte} {data : List Byte} {id : Byte} (h : s.Sending mtu data id)
    (last : data.drop mtu.toNat = []) : ∃ u, ackRound s = .next u ∧ u.pendV = false ∧ u.ob = [] ∧ u.ctl = .loop := by
  obtain ⟨u, e, noPend, -, -, ob, -⟩ := ackRound_of_sending h
  rw [last] at ob
  rw [advance_idle false u (.inr ob)] at e
  exact ⟨_, e, noPend, ob, rfl⟩

/-- The rounds from the front, one at the end. -/
theorem ackRounds_succ {k : Nat} {s t : State} (h : ackRounds k s = .next t) : ackRounds (k + 1) s = ackRound t := by
  induction k generalizing s with
  | zero =>
    cases h
    simp only [ackRounds]
    cases ackRound t <;> rfl
  | succ k ih =>
    rw [ackRounds] at h ⊢
    cases first : ackRound s with
    | next u =>
      rw [first] at h
      exact ih h
    | fault r => rw [first] at h; cases h
    | refused r => rw [first] at h; cases h

/-- After `j` rounds the first `j * MTU` bytes are gone. -/
theorem ackRounds_sending {mtu : Byte} (legal : mtu ≠ 0#8) {j : Nat} {s : State} {data : List Byte} {id : Byte}
    (h : s.Sending mtu data id) (left : j * mtu.toNat < data.length) :
    ∃ u, ackRounds j s = .next u ∧ u.Sending mtu (data.drop (j * mtu.toNat)) (seqSucc^[j] id) := by
  induction j with
  | zero => exact ⟨s, rfl, by simpa using h⟩
  | succ j ih =>
    rw [Nat.succ_mul] at left ⊢
    obtain ⟨u, rounds, sending⟩ := ih (by omega)
    obtain ⟨v, round, next⟩ := ackRound_sending legal sending
      (by rw [← List.length_pos_iff, List.length_drop, List.length_drop]; omega)
    rw [List.drop_drop] at next
    exact ⟨v, (ackRounds_succ rounds).trans round, by rwa [Function.iterate_succ_apply']⟩

/-- Settles O53: the write leaves the block about to send all of its bytes; the last of the rounds starts with 1 to MTU bytes left. -/
theorem writeIsSegmentedByMtu : Obligations.WriteIsSegmentedByMtu := by
  intro s data hs ctl idle noPend nonempty
  have legal : s.cfgMtu ≠ 0#8 := hs.config.1
  have empty : s.ob = [] := hs.idle noPend
  have sending : ∃ t, exec (.hostWrite data) s = .next t ∧ t.Sending s.cfgMtu data s.seq := by
    rcases execHostWrite_cases data s with ⟨wait, -⟩ | ⟨-, e⟩
    · exact absurd ctl wait
    · rw [empty, List.nil_append, advance_build false (replyWrote data { s with ob := data }) noPend nonempty] at e
      exact ⟨_, e, (buildFrame_sending (s := replyWrote data { s with ob := data }) legal idle nonempty).logStep _⟩
  obtain ⟨t, write, sending⟩ := sending
  refine ⟨t, write, fun j left => ?_, ?_⟩
  · obtain ⟨u, rounds, h⟩ := ackRounds_sending legal sending left
    refine ⟨u, rounds, h.pendV, h.ctl, h.payload, h.pendId, ?_⟩
    rw [h.ob, List.drop_drop, Nat.succ_mul]
  · have pos : 0 < data.length := List.length_pos_iff.mpr nonempty
    have mtuPos : 0 < s.cfgMtu.toNat := Nat.pos_of_ne_zero fun z => legal (BitVec.eq_of_toNat_eq z)
    have count : (data.length + s.cfgMtu.toNat - 1) / s.cfgMtu.toNat = (data.length - 1) / s.cfgMtu.toNat + 1 := by
      rw [← Nat.add_div_right _ mtuPos]
      congr 1
      omega
    have before : (data.length - 1) / s.cfgMtu.toNat * s.cfgMtu.toNat ≤ data.length - 1 := Nat.div_mul_le_self _ _
    have after := Nat.lt_div_mul_add mtuPos (a := data.length - 1)
    obtain ⟨u, rounds, h⟩ := ackRounds_sending legal sending (j := (data.length - 1) / s.cfgMtu.toNat) (by omega)
    rw [count, ackRounds_succ rounds]
    exact ackRound_last h (by rw [List.drop_drop, List.drop_eq_nil_iff]; omega)

end Sys2Proof.Machine

/-! ## What an act at a link does to one end

In a joint run that is never reset again an end waits, with at most new inputs at its port and on its line, or runs an instruction that
is enabled. What the proofs over runs ask of such a step is said here, effect by effect. -/

namespace Sys2Proof.Machine

/-- From `s` to `t` only what waits outside the block changes, and the model's own fields. -/
def State.Quiet (s t : State) : Prop :=
  ∃ ag fc sel hp rl, t = { s with agenda := ag, freeCtr := fc, hostSel := sel, hostPort := hp, rxLine := rl }

/-- From `s` to `t` an enabled instruction runs. -/
def State.Moves (s t : State) : Prop :=
  ∃ i label u v, Refetched s u ∧ Effect u i label v ∧ t = logStep label v

/-- What a step without a reset is for the block. -/
def State.EndStep (s t : State) : Prop := s.Quiet t ∨ s.Moves t

theorem State.Quiet.refl (s : State) : s.Quiet s := ⟨s.agenda, s.freeCtr, s.hostSel, s.hostPort, s.rxLine, rfl⟩

theorem step_endStep {s t : State} (h : step s = .next t) (noReset : s.nextResets = false) : s.EndStep t := by
  obtain ⟨-, ⟨-, i, u, hu, hx⟩ | ⟨-, u, hp, rl, hu, rfl⟩ | ⟨u, mtu, retry, start, -, resets, -, -⟩⟩ := step_next h
  · rcases exec_next hx with rfl | ⟨label, v, hv, rfl⟩
    · obtain ⟨ag, fc, sel, hp, rfl⟩ := hu
      exact .inl ⟨ag, fc, sel, hp, s.rxLine, rfl⟩
    · exact .inr ⟨i, label, u, v, hu, hv, rfl⟩
  · obtain ⟨ag, fc, sel, _, rfl⟩ := hu
    exact .inl ⟨ag, fc, sel, hp, rl, rfl⟩
  · cases noReset.symm.trans resets

/-- The agenda an act is put on is no part of the block. -/
theorem State.EndStep.of_agenda {s t : State} {ag : List Act} (h : ({ s with agenda := ag } : State).EndStep t) : s.EndStep t := by
  rcases h with ⟨ag', fc, sel, hp, rl, rfl⟩ | ⟨i, label, u, v, ⟨ag', fc, sel, hp, rfl⟩, hv, rfl⟩
  · exact .inl ⟨ag', fc, sel, hp, rl, rfl⟩
  · exact .inr ⟨i, label, _, v, ⟨ag', fc, sel, hp, rfl⟩, hv, rfl⟩

theorem carry_quiet (s t peer : State) : peer.Quiet (carry s t peer) := ⟨_, _, _, _, _, rfl⟩

/-- An act at the link that is no reset is a step of one end, and the other end waits. -/
theorem act_endStep {l m : Link} {x : LinkAct} (h : Link.act l x = .next m) (noReset : x.resets = false) :
    ∃ z : Side, (l.endAt z).EndStep (m.endAt z) ∧ (l.endAt z.peer).Quiet (m.endAt z.peer) := by
  rcases act_cases h with ⟨rfl, -⟩ | ⟨z, y, rfl, -, -, ⟨-, rfl⟩ | ⟨-, step, carried⟩⟩
  · cases noReset
  · exact ⟨z, .inl (.refl _), .refl _⟩
  · refine ⟨z, .of_agenda (step_endStep step ?_), carried ▸ carry_quiet _ _ _⟩
    cases y with
    | env e => cases e <;> first | rfl | cases noReset
    | _ => rfl

/-! ### Effect by effect -/

/-- The held frame stays, or it is taken in LOOP: an acknowledgment, which answers the pending frame if it has its id, or a data frame,
which is to be acknowledged (42_state_machine.md R144-R146). -/
def State.HoldsOrTakes (s t : State) : Prop :=
  (t.rxPhase = .hold ∧ t.rxHold = s.rxHold) ∨
  (s.ctl = .loop ∧ t.rxPhase = .hdr ∧
    ((s.rxHold.id = 0#8 ∧ (s.pendV = true → s.pendId = s.rxHold.ack → t.pendV = false ∨ t.seq ≠ s.seq)) ∨
     (s.rxHold.id ≠ 0#8 ∧ t.ctl = .ackWait ∧ t.ackId = s.rxHold.id)))

theorem seqSucc_ne_self (v : Byte) : seqSucc v ≠ v := by
  unfold seqSucc
  split <;> bv_omega

theorem Effect.holdsOrTakes {i : Instr} {label : Byte} {s u : State} (h : Effect s i label u) (hold : s.rxPhase = .hold) :
    s.HoldsOrTakes u := by
  cases h with
  | ackMatched ack size data ctl rx held pend id =>
    refine .inr ⟨ctl, by simp, .inl ⟨by rw [held], fun _ _ => ?_⟩⟩
    rcases advance_cases false { s with rxPhase := .hdr, pendV := false } with ⟨-, e⟩ | ⟨-, -, e⟩ <;> rw [e]
    · exact .inl rfl
    · exact .inr (seqSucc_ne_self s.seq)
  | ackIgnored ack size data ctl rx held other =>
    exact .inr ⟨ctl, rfl, .inl ⟨by rw [held], fun pend id => absurd ⟨pend, by rw [id, held]⟩ other⟩⟩
  | dataDuplicate id ack size data ctl rx held nz => exact .inr ⟨ctl, rfl, .inr (by rw [held]; exact ⟨nz, rfl, rfl⟩)⟩
  | dataNew id ack size data ctl rx held nz => exact .inr ⟨ctl, rfl, .inr (by rw [held]; exact ⟨nz, rfl, rfl⟩)⟩
  | badStart h0 h1 h2 h3 rest hdr => cases hold.symm.trans hdr
  | received b rest reads => exact absurd hold reads
  | receiveFailed reads => exact absurd hold reads
  | _ => exact .inl (by simp [hold])

theorem State.EndStep.holdsOrTakes {s t : State} (h : s.EndStep t) (hold : s.rxPhase = .hold) : s.HoldsOrTakes t := by
  rcases h with ⟨ag, fc, sel, hp, rl, rfl⟩ | ⟨i, label, u, v, ⟨ag, fc, sel, hp, rfl⟩, hv, rfl⟩
  · exact .inl ⟨hold, rfl⟩
  · exact hv.holdsOrTakes hold

/-- The FSM leaves ACK_WAIT only by handing the acknowledgment over (R147). -/
def State.AwaitsOrAcks (s t : State) : Prop :=
  (t.ctl = .ackWait ∧ t.ackId = s.ackId) ∨
  (s.txBusy = false ∧ t.txBusy = true ∧ t.txQ = encodeFrame s.cfgStart (ackFrame s))

theorem Effect.awaitsOrAcks {i : Instr} {label : Byte} {s u : State} (h : Effect s i label u) (wait : s.ctl = .ackWait) :
    s.AwaitsOrAcks u := by
  cases h with
  | ackHandedOver ctl idle => exact .inr ⟨idle, rfl, rfl⟩
  | badStart => exact .inl ⟨wait, rfl⟩
  | received => exact .inl (by simp [wait])
  | receiveFailed => exact .inl ⟨wait, rfl⟩
  | sent => exact .inl ⟨wait, rfl⟩
  | sendFailed => exact .inl ⟨wait, rfl⟩
  | timerTicked => exact .inl ⟨wait, rfl⟩
  | _ => simp_all

theorem State.EndStep.awaitsOrAcks {s t : State} (h : s.EndStep t) (wait : s.ctl = .ackWait) : s.AwaitsOrAcks t := by
  rcases h with ⟨ag, fc, sel, hp, rl, rfl⟩ | ⟨i, label, u, v, ⟨ag, fc, sel, hp, rfl⟩, hv, rfl⟩
  · exact .inl ⟨wait, rfl⟩
  · exact hv.awaitsOrAcks wait

/-- An idle TXD is handed the new or resent pending frame, or the acknowledgment (R162). -/
def State.HandsOver (s t : State) : Prop :=
  ((s.ctl = .advWait ∨ s.pendV = true) ∧ t.txQ = encodeFrame s.cfgStart (pendFrame s)) ∨
  (s.ctl = .ackWait ∧ t.txQ = encodeFrame s.cfgStart (ackFrame s))

theorem Effect.handsOver {i : Instr} {label : Byte} {s u : State} (h : Effect s i label u) (idle : s.txBusy = false)
    (sends : u.txBusy = true) : s.HandsOver u := by
  cases h with
  | handedOver ctl => exact .inl ⟨.inl ctl, rfl⟩
  | resent ctl pend => exact .inl ⟨.inr pend, rfl⟩
  | ackHandedOver ctl => exact .inr ⟨ctl, rfl⟩
  | sent b rest busy => cases idle.symm.trans busy
  | _ => simp [idle] at sends

theorem State.EndStep.handsOver {s t : State} (h : s.EndStep t) (idle : s.txBusy = false) (busy : t.txBusy = true) :
    s.HandsOver t := by
  rcases h with ⟨ag, fc, sel, hp, rl, rfl⟩ | ⟨i, label, u, v, ⟨ag, fc, sel, hp, rfl⟩, hv, rfl⟩
  · cases idle.symm.trans busy
  · exact hv.handsOver idle busy

/-- A step's label is the one entry of the history it adds (30_encoding.md R81). -/
theorem Effect.history {i : Instr} {label : Byte} {s u : State} (h : Effect s i label u) : u.history = s.history := by
  cases h <;> simp

theorem Effect.resends {i : Instr} {s u : State} (h : Effect s i 0x40#8 u) (pend : s.pendV = true) (idle : s.txBusy = false) :
    u.txBusy = true ∧ u.txQ = encodeFrame s.cfgStart (pendFrame s) := by
  cases h with
  | resent => exact ⟨rfl, rfl⟩
  | resendSkipped ctl skip => exact absurd ⟨pend, idle⟩ skip

/-- The step with RESEND_TRY's label hands a pending frame to an idle TXD (R149). -/
theorem State.EndStep.resends {s t : State} (h : s.EndStep t) (taken : t.history = s.history ++ [0x40#8]) (pend : s.pendV = true)
    (idle : s.txBusy = false) : t.txBusy = true ∧ t.txQ = encodeFrame s.cfgStart (pendFrame s) := by
  rcases h with ⟨ag, fc, sel, hp, rl, rfl⟩ | ⟨i, label, u, v, ⟨ag, fc, sel, hp, rfl⟩, hv, rfl⟩
  · simp at taken
  · obtain rfl : label = 0x40#8 := by simpa [hv.history] using taken
    exact hv.resends pend idle

/-- What RX_DATA keeps of the frame it accepts (R146): nothing else writes the last accepted id or lengthens the inbound stream. -/
inductive ReceiverStep (s t : State) : Prop
  | keeps (lastV : t.lastV = s.lastV) (lastId : t.lastId = s.lastId) (delivered : t.delivered = s.delivered)
  | accepts (hold : s.rxPhase = .hold) (dataClass : s.rxHold.id ≠ 0#8) (new : ¬(s.lastV = true ∧ s.lastId = s.rxHold.id))
      (lastV : t.lastV = true) (lastId : t.lastId = s.rxHold.id) (delivered : t.delivered = s.delivered ++ s.rxHold.data)
      (taken : t.rxPhase = .hdr)

theorem Effect.receiverStep {i : Instr} {label : Byte} {s u : State} (h : Effect s i label u) : ReceiverStep s u := by
  cases h with
  | dataNew id ack size data ctl rx held nz new =>
    exact .accepts rx (by rwa [held]) (by rwa [held]) rfl (by rw [held])
      (by rw [held]; exact (List.append_assoc _ _ _).symm) rfl
  | read n => exact .keeps rfl rfl (delivered_read _ s)
  | written data => exact .keeps (by simp) (by simp) (delivered_written data s)
  | _ => exact .keeps (by simp) (by simp) (delivered_congr (by simp) (by simp))

theorem State.EndStep.receiverStep {s t : State} (h : s.EndStep t) : ReceiverStep s t := by
  rcases h with ⟨ag, fc, sel, hp, rl, rfl⟩ | ⟨i, label, u, v, ⟨ag, fc, sel, hp, rfl⟩, hv, rfl⟩
  · exact .keeps rfl rfl rfl
  · cases hv.receiverStep with
    | keeps lastV lastId delivered => exact .keeps lastV lastId delivered
    | accepts hold dataClass new lastV lastId delivered taken => exact .accepts hold dataClass new lastV lastId delivered taken

theorem State.Quiet.senderStep {s t : State} (h : s.Quiet t) : SenderStep s t := by
  obtain ⟨ag, fc, sel, hp, rl, rfl⟩ := h
  exact .keeps [] rfl rfl rfl .of_eq

theorem State.EndStep.senderStep {s t : State} (h : s.EndStep t) : SenderStep s t := by
  rcases h with quiet | ⟨i, label, u, v, hu, hv, rfl⟩
  · exact quiet.senderStep
  · exact hu.senderStep (hv.senderStep.logStep label)

/-- What a waiting FSM is about to hand over: in ADV_WAIT a pending frame, and in ACK_WAIT the acknowledgment of the last accepted
frame (10_state.md R36 (iii), 42_state_machine.md R146). Unlike `State.Inv` it asks nothing of the configuration. -/
def State.HandoffOk (s : State) : Prop :=
  (s.ctl = .advWait → s.pendV = true) ∧ (s.ctl = .ackWait → s.lastV = true ∧ s.ackId = s.lastId)

theorem advance_handoffOk (r : Bool) (s : State) : (advance r s).HandoffOk := by
  rcases advance_cases r s with ⟨-, e⟩ | ⟨-, -, e⟩ <;> rw [e]
  · cases r <;> simp [State.HandoffOk]
  · simp [State.HandoffOk]

theorem continueTo_handoffOk (r : Bool) (s : State) : (continueTo r s).HandoffOk := by
  cases r <;> simp [State.HandoffOk]

theorem Effect.handoffOk {i : Instr} {label : Byte} {s u : State} (h : Effect s i label u) (hs : s.HandoffOk) : u.HandoffOk := by
  cases h with
  | ackMatched | written | ticked => exact advance_handoffOk _ _
  | handedOver | abandoned => exact continueTo_handoffOk _ _
  | dataDuplicate id ack size data ctl rx held nz lastV last => exact ⟨nofun, fun _ => ⟨lastV, last.symm⟩⟩
  | dataNew => exact ⟨nofun, fun _ => ⟨rfl, rfl⟩⟩
  | resent | resendSkipped | ackHandedOver => exact ⟨nofun, nofun⟩
  | received => simpa [State.HandoffOk] using hs
  | _ => exact hs

theorem State.EndStep.handoffOk {s t : State} (h : s.EndStep t) (hs : s.HandoffOk) : t.HandoffOk := by
  rcases h with ⟨ag, fc, sel, hp, rl, rfl⟩ | ⟨i, label, u, v, ⟨ag, fc, sel, hp, rfl⟩, hv, rfl⟩
  · exact hs
  · exact hv.handoffOk hs

end Sys2Proof.Machine

/-! ## One end of a connection: what it has built, acknowledged and accepted

Frames are numbered from 0 in the order they are built; the id of a frame is its number's place in the cycle of 41_sequencer.md R132.
Stop-and-wait needs no more than that neighbours in the cycle differ. -/

namespace Sys2Proof.Machine

/-- The id of the `k`-th frame since reset. -/
def frameId (k : Nat) : Byte := seqSucc^[k] 1#8

theorem frameId_succ (k : Nat) : frameId (k + 1) = seqSucc (frameId k) := Function.iterate_succ_apply' _ _ _

theorem frameId_ne_zero (k : Nat) : frameId k ≠ 0#8 := by
  cases k with
  | zero => decide
  | succ k => exact frameId_succ k ▸ seqSucc_ne_zero _

theorem frameId_succ_ne (k : Nat) : frameId (k + 1) ≠ frameId k := frameId_succ k ▸ seqSucc_ne_self _

/-- How many frames have been built before step `n`: SeqNext is called once for each (41_sequencer.md R133). -/
def builtCount (e : Nat → State) (n : Nat) : Nat := Nat.count (fun k => (e (k + 1)).seq ≠ (e k).seq) n

/-- How many acknowledgments have been taken before step `n`: a pending frame is gone, or another one is pending. -/
def ackedCount (e : Nat → State) (n : Nat) : Nat :=
  Nat.count (fun k => (e k).pendV = true ∧ ((e (k + 1)).pendV = false ∨ (e (k + 1)).seq ≠ (e k).seq)) n

/-- How many data frames have been accepted as new before step `n`: each is recorded as the last (42_state_machine.md R146). -/
def acceptedCount (e : Nat → State) (n : Nat) : Nat :=
  Nat.count (fun k => (e (k + 1)).lastV ≠ (e k).lastV ∨ (e (k + 1)).lastId ≠ (e k).lastId) n

/-- A run of one end since the reset of both: every step is a step of the block or waits. -/
structure IsEndRun (e : Nat → State) : Prop where
  fresh : ∃ s, e 0 = freshEnd s
  step  : ∀ n, (e n).EndStep (e (n + 1))

/-- From step `n` the frames that are built, pending and acknowledged stay as they are. -/
structure SenderKeeps (e : Nat → State) (n : Nat) : Prop where
  built : builtCount e (n + 1) = builtCount e n
  acked : ackedCount e (n + 1) = ackedCount e n
  seq   : (e (n + 1)).seq = (e n).seq
  pendV : (e (n + 1)).pendV = (e n).pendV
  frame : pendFrame (e (n + 1)) = pendFrame (e n)

/-- Step `n` makes a frame pending where none was. -/
structure SenderBuilds (e : Nat → State) (n : Nat) : Prop where
  built  : builtCount e (n + 1) = builtCount e n + 1
  acked  : ackedCount e (n + 1) = ackedCount e n
  seq    : (e (n + 1)).seq = seqSucc (e n).seq
  noPend : (e n).pendV = false
  pendV  : (e (n + 1)).pendV = true
  id     : (e (n + 1)).pendId = (e n).seq

/-- Step `n` takes the acknowledgment of the pending frame. -/
structure SenderAcked (e : Nat → State) (n : Nat) : Prop where
  acked    : ackedCount e (n + 1) = ackedCount e n + 1
  pendV    : (e n).pendV = true
  hold     : (e n).rxPhase = .hold
  ackClass : (e n).rxHold.id = 0#8
  ack      : (e n).rxHold.ack = (e n).pendId
  taken    : (e (n + 1)).rxPhase = .hdr
  written  : (e (n + 1)).obsWritten = (e n).obsWritten
  payload  : (e n).unacknowledged = (e n).pendData ++ (e (n + 1)).unacknowledged
  next     : (builtCount e (n + 1) = builtCount e n ∧ (e (n + 1)).seq = (e n).seq ∧ (e (n + 1)).pendV = false) ∨
    (builtCount e (n + 1) = builtCount e n + 1 ∧ (e (n + 1)).seq = seqSucc (e n).seq ∧ (e (n + 1)).pendV = true ∧
      (e (n + 1)).pendId = (e n).seq)

/-- Step `n` accepts no data frame as new. -/
structure ReceiverKeeps (e : Nat → State) (n : Nat) : Prop where
  accepted  : acceptedCount e (n + 1) = acceptedCount e n
  lastV     : (e (n + 1)).lastV = (e n).lastV
  lastId    : (e (n + 1)).lastId = (e n).lastId
  delivered : (e (n + 1)).delivered = (e n).delivered

/-- Step `n` accepts the held data frame as new. -/
structure ReceiverAccepts (e : Nat → State) (n : Nat) : Prop where
  accepted  : acceptedCount e (n + 1) = acceptedCount e n + 1
  hold      : (e n).rxPhase = .hold
  dataClass : (e n).rxHold.id ≠ 0#8
  new       : ¬((e n).lastV = true ∧ (e n).lastId = (e n).rxHold.id)
  lastV     : (e (n + 1)).lastV = true
  lastId    : (e (n + 1)).lastId = (e n).rxHold.id
  delivered : (e (n + 1)).delivered = (e n).delivered ++ (e n).rxHold.data
  taken     : (e (n + 1)).rxPhase = .hdr

/-- What a step does to the outbound stream, counted. -/
theorem senderCounts {e : Nat → State} {n : Nat} (h : SenderStep (e n) (e (n + 1))) :
    ((SenderKeeps e n ∨ SenderBuilds e n) ∧ ∃ data, (e n).Writes (e (n + 1)) data) ∨ SenderAcked e n := by
  cases h with
  | keeps data seq pendV frame writes =>
    refine .inl ⟨.inl ⟨?_, ?_, seq, pendV, frame⟩, data, writes⟩
    · simp [builtCount, Nat.count_succ, seq]
    · simp [ackedCount, Nat.count_succ, seq, pendV]
  | builds data noPend seq pendV id writes =>
    refine .inl ⟨.inr ⟨?_, ?_, seq, noPend, pendV, id⟩, data, writes⟩
    · simp [builtCount, Nat.count_succ, seq, seqSucc_ne_self]
    · simp [ackedCount, Nat.count_succ, noPend]
  | acknowledged pendV ctl rx ackClass ack taken written payload next =>
    refine .inr ⟨?_, pendV, rx, ackClass, ack, taken, written, payload, ?_⟩
    · rcases next with ⟨seq, gone⟩ | ⟨seq, -, -⟩
      · simp [ackedCount, Nat.count_succ, pendV, gone]
      · simp [ackedCount, Nat.count_succ, pendV, seq, seqSucc_ne_self]
    · rcases next with ⟨seq, gone⟩ | ⟨seq, built, id⟩
      · exact .inl ⟨by simp [builtCount, Nat.count_succ, seq], seq, gone⟩
      · exact .inr ⟨by simp [builtCount, Nat.count_succ, seq, seqSucc_ne_self], seq, built, id⟩

/-- What a step does to the inbound stream, counted. -/
theorem receiverCounts {e : Nat → State} {n : Nat} (h : ReceiverStep (e n) (e (n + 1))) :
    ReceiverKeeps e n ∨ ReceiverAccepts e n := by
  cases h with
  | keeps lastV lastId delivered =>
    exact .inl ⟨by simp [acceptedCount, Nat.count_succ, lastV, lastId], lastV, lastId, delivered⟩
  | accepts hold dataClass new lastV lastId delivered taken =>
    have changed : (e (n + 1)).lastV ≠ (e n).lastV ∨ (e (n + 1)).lastId ≠ (e n).lastId := by
      rw [lastV, lastId]
      by_cases first : (e n).lastV = true
      · exact .inr fun same => new ⟨first, same.symm⟩
      · exact .inl fun same => first same.symm
    have counted : acceptedCount e (n + 1) = acceptedCount e n + 1 := by
      rw [acceptedCount, Nat.count_succ, if_pos changed]
      rfl
    exact .inr ⟨counted, hold, dataClass, new, lastV, lastId, delivered, taken⟩

theorem builtCount_mono (e : Nat → State) : Monotone (builtCount e) := Nat.count_monotone _
theorem ackedCount_mono (e : Nat → State) : Monotone (ackedCount e) := Nat.count_monotone _
theorem acceptedCount_mono (e : Nat → State) : Monotone (acceptedCount e) := Nat.count_monotone _

section EndRun

variable {e : Nat → State} (he : IsEndRun e)

include he

/-- The counter, the pending frame's id and the two counts (10_state.md R29, R36): the pending frame is the only one built and not
acknowledged. -/
theorem IsEndRun.sender (n : Nat) :
    (e n).seq = frameId (builtCount e n) ∧ builtCount e n = ackedCount e n + (e n).pendV.toNat ∧
    ((e n).pendV = true → (e n).pendId = frameId (ackedCount e n)) := by
  induction n with
  | zero =>
    obtain ⟨s, h⟩ := he.fresh
    rw [h]
    exact ⟨rfl, rfl, nofun⟩
  | succ n ih =>
    obtain ⟨seq, counts, id⟩ := ih
    rcases senderCounts (he.step n).senderStep with ⟨h | h, -⟩ | h
    · have sameId : (e (n + 1)).pendId = (e n).pendId := congrArg Frame.id h.frame
      rw [h.built, h.acked, h.seq, h.pendV, sameId]
      exact ⟨seq, counts, id⟩
    · rw [h.noPend] at counts
      rw [h.built, h.acked, h.seq, h.pendV, h.id, seq, counts]
      exact ⟨(frameId_succ _).symm, rfl, fun _ => rfl⟩
    · rw [h.pendV] at counts
      rcases h.next with ⟨built, seq', gone⟩ | ⟨built, seq', pendV, id'⟩
      · rw [built, h.acked, seq', gone, seq]
        exact ⟨rfl, counts, nofun⟩
      · rw [built, h.acked, seq', pendV, id', seq, counts]
        exact ⟨(frameId_succ _).symm, rfl, fun _ => rfl⟩

theorem IsEndRun.built_eq (n : Nat) : builtCount e n = ackedCount e n + (e n).pendV.toNat := (he.sender n).2.1

theorem IsEndRun.pendId_eq {n : Nat} (pendV : (e n).pendV = true) : (e n).pendId = frameId (ackedCount e n) :=
  (he.sender n).2.2 pendV

theorem IsEndRun.handoffOk (n : Nat) : (e n).HandoffOk := by
  induction n with
  | zero =>
    obtain ⟨s, h⟩ := he.fresh
    rw [h]
    exact ⟨nofun, nofun⟩
  | succ n ih => exact (he.step n).handoffOk ih

/-- A frame is recorded as the last accepted one exactly if one has been accepted. -/
theorem IsEndRun.lastV_iff (n : Nat) : (e n).lastV = true ↔ 0 < acceptedCount e n := by
  induction n with
  | zero =>
    obtain ⟨s, h⟩ := he.fresh
    rw [h]
    exact iff_of_false nofun (Nat.lt_irrefl 0)
  | succ n ih =>
    rcases receiverCounts (he.step n).receiverStep with keeps | accepts
    · rw [keeps.accepted, keeps.lastV, ih]
    · simp [accepts.accepted, accepts.lastV]

/-- The pending frame of an earlier step is still the same if none has been built since. -/
theorem IsEndRun.pendFrame_eq {k n : Nat} (le : k ≤ n) (built : builtCount e n = builtCount e k) (pendV : (e n).pendV = true) :
    pendFrame (e n) = pendFrame (e k) := by
  induction n, le using Nat.le_induction with
  | base => rfl
  | succ n le ih =>
    have before := builtCount_mono e le
    rcases senderCounts (he.step n).senderStep with ⟨h | h, -⟩ | h
    · rw [h.frame]
      exact ih (h.built ▸ built) (h.pendV ▸ pendV)
    · have := h.built
      omega
    · rcases h.next with ⟨-, -, gone⟩ | ⟨more, -⟩
      · cases gone.symm.trans pendV
      · omega

/-- A held frame has been received, and since then no acknowledgment has been taken and no frame accepted. -/
theorem IsEndRun.received {n : Nat} (hold : (e n).rxPhase = .hold) :
    ∃ m < n, Receives e (e n).rxHold m ∧ ackedCount e n = ackedCount e m ∧ acceptedCount e n = acceptedCount e m := by
  induction n with
  | zero =>
    obtain ⟨s, h⟩ := he.fresh
    rw [h] at hold
    cases hold
  | succ n ih =>
    have acked : ackedCount e (n + 1) = ackedCount e n := by
      rcases senderCounts (he.step n).senderStep with ⟨h | h, -⟩ | h
      · exact h.acked
      · exact h.acked
      · cases h.taken.symm.trans hold
    have accepted : acceptedCount e (n + 1) = acceptedCount e n := by
      rcases receiverCounts (he.step n).receiverStep with keeps | accepts
      · exact keeps.accepted
      · cases accepts.taken.symm.trans hold
    rw [acked, accepted]
    by_cases before : (e n).rxPhase = .hold
    · rcases (he.step n).holdsOrTakes before with ⟨-, same⟩ | ⟨-, taken, -⟩
      · obtain ⟨m, lt, h⟩ := ih before
        exact ⟨m, by omega, same ▸ h⟩
      · cases taken.symm.trans hold
    · exact ⟨n, n.lt_succ_self, ⟨before, hold, rfl⟩, rfl, rfl⟩

end EndRun

/-- The encoder loses nothing of a frame (40_codec.md R103). -/
theorem encodeFrame_injective (start : Byte) : Function.Injective (encodeFrame start) := by
  rintro ⟨id, ack, size, data⟩ ⟨id', ack', size', data'⟩ h
  have len : data.length = data'.length := by simpa using congrArg List.length h
  obtain ⟨body, -⟩ := List.append_inj h (by simp [len])
  simpa [frameBody] using body

section Sends

variable {e : Nat → State} (he : IsEndRun e) {f : Frame} {k : Nat} (sends : Sends e f k)

include he sends

/-- A data frame that is transmitted is the pending one (42_state_machine.md R160). -/
theorem IsEndRun.sends_data (dataClass : f.id ≠ 0#8) : (e k).pendV = true ∧ f = pendFrame (e k) := by
  obtain ⟨idle, busy, queue⟩ := sends
  rcases (he.step k).handsOver idle busy with ⟨pending, q⟩ | ⟨-, q⟩
  · refine ⟨pending.elim (he.handoffOk k).1 id, encodeFrame_injective _ (queue.symm.trans q)⟩
  · rw [encodeFrame_injective _ (queue.symm.trans q)] at dataClass
    exact absurd rfl dataClass

/-- An acknowledgment that is transmitted names the last accepted frame (R161). -/
theorem IsEndRun.sends_ack (ackClass : f.id = 0#8) : (e k).lastV = true ∧ f.ack = (e k).lastId := by
  obtain ⟨idle, busy, queue⟩ := sends
  rcases (he.step k).handsOver idle busy with ⟨pending, q⟩ | ⟨wait, q⟩
  · have pendV : (e k).pendV = true := pending.elim (he.handoffOk k).1 id
    rw [encodeFrame_injective _ (queue.symm.trans q)] at ackClass
    exact absurd ((he.pendId_eq pendV).symm.trans ackClass) (frameId_ne_zero _)
  · obtain ⟨lastV, ackId⟩ := (he.handoffOk k).2 wait
    rw [encodeFrame_injective _ (queue.symm.trans q)]
    exact ⟨lastV, ackId⟩

end Sends

end Sys2Proof.Machine

/-! ## Two ends in step: what is delivered is the beginning of what is written

One direction of a connection is a sender `e` and a receiver `g`. The receiver is at most one frame ahead of the acknowledgments and
never ahead of what is built. Frames and acknowledgments arrive in the order of their transmissions, so a held one is of the current
frame or of its neighbour, and the neighbours' ids differ. -/

namespace Sys2Proof.Machine

/-- What the frames received at `g` were at `e`: `src` says at which step each was transmitted (44_host_interface.md R209; log 20). -/
structure Carries (e g : Nat → State) (src : Nat → Nat) : Prop where
  mono : Monotone src
  sent : ∀ n f, Receives g f n → src n < n ∧ Sends e f (src n)

/-- The invariant of one direction, before step `n`. -/
structure InStep (e g : Nat → State) (data ack : Nat → Nat) (n : Nat) : Prop where
  /-- An acknowledged frame has been accepted. -/
  lower : ackedCount e n ≤ acceptedCount g n
  /-- An accepted frame has been built. -/
  upper : acceptedCount g n ≤ builtCount e n
  lastId : ∀ k, acceptedCount g n = k + 1 → (g n).lastId = frameId k
  /-- Both streams since the reset begin with the acknowledged payloads; the pending one may be delivered too. -/
  streams : ∃ done, (e n).obsWritten = (e 0).obsWritten ++ done ++ (e n).unacknowledged ∧
    (g n).delivered = (g 0).delivered ++ done ++ (if acceptedCount g n = ackedCount e n then [] else (e n).pendData)
  /-- A frame that is still to arrive is none before the last accepted one. -/
  ahead : ∀ m f, n ≤ m → Receives g f m → acceptedCount g n ≤ builtCount e (data m)
  /-- An acknowledgment that is still to arrive is of none before the last acknowledged frame. -/
  ackAhead : ∀ m f, n ≤ m → Receives e f m → ackedCount e n ≤ acceptedCount g (ack m)

section Direction

variable {e g : Nat → State} {data ack : Nat → Nat} (he : IsEndRun e) (hg : IsEndRun g)

include he

theorem inStep_zero : InStep e g data ack 0 := by
  obtain ⟨s, h⟩ := he.fresh
  refine ⟨le_rfl, le_rfl, nofun, ⟨[], ?_, by simp [acceptedCount, ackedCount]⟩, fun _ _ _ _ => Nat.zero_le _,
    fun _ _ _ _ => Nat.zero_le _⟩
  simp [State.unacknowledged, h, freshEnd, applyReset]

/-- Where the receiver has accepted a frame that is not acknowledged, that frame is pending. -/
theorem InStep.pending {n : Nat} (h : InStep e g data ack n) (ne : acceptedCount g n ≠ ackedCount e n) : (e n).pendV = true := by
  have counts := he.built_eq n
  have lower := h.lower
  have upper := h.upper
  cases pendV : (e n).pendV
  · rw [pendV, Bool.toNat_false] at counts
    omega
  · rfl

/-- The streams since the reset: what is delivered is what is written but for bytes that are not acknowledged yet. -/
theorem InStep.delivered_written {n : Nat} (h : InStep e g data ack n) :
    ∃ written delivered, (e n).obsWritten = (e 0).obsWritten ++ written ∧ (g n).delivered = (g 0).delivered ++ delivered ∧
      delivered <+: written ∧ written.length ≤ delivered.length + (e n).unacknowledged.length := by
  obtain ⟨done, written, delivered⟩ := h.streams
  refine ⟨_, _, by rw [written, List.append_assoc], by rw [delivered, List.append_assoc], ?_, by simp⟩
  rw [List.prefix_append_right_inj]
  split_ifs with eq
  · exact List.nil_prefix
  · simp [State.unacknowledged, h.pending he eq]

/-- The step lemma where the sender takes no acknowledgment and the receiver accepts nothing. -/
theorem InStep.succ_of_keeps {n : Nat} (h : InStep e g data ack n) (receiver : ReceiverKeeps g n)
    (sender : SenderKeeps e n ∨ SenderBuilds e n) {bytes : List Byte} (writes : (e n).Writes (e (n + 1)) bytes) :
    InStep e g data ack (n + 1) := by
  have pending := h.pending he
  obtain ⟨lower, upper, lastId, ⟨done, written, delivered⟩, ahead, ackAhead⟩ := h
  obtain ⟨wrote, waits⟩ := writes
  have builtMono : builtCount e n ≤ builtCount e (n + 1) := builtCount_mono e n.le_succ
  have acked : ackedCount e (n + 1) = ackedCount e n := sender.elim (·.acked) (·.acked)
  have pendData : acceptedCount g n ≠ ackedCount e n → (e (n + 1)).pendData = (e n).pendData := fun ne => by
    rcases sender with keeps | builds
    · exact congrArg Frame.data keeps.frame
    · cases builds.noPend.symm.trans (pending ne)
  rw [← receiver.accepted] at lower upper lastId ahead
  rw [← acked] at lower ackAhead
  refine ⟨lower, upper.trans builtMono, receiver.lastId ▸ lastId, ⟨done, ?_, ?_⟩, fun m f le => ahead m f (by omega),
    fun m f le => ackAhead m f (by omega)⟩
  · rw [wrote, waits, written, List.append_assoc _ _ bytes]
  · rw [receiver.delivered, delivered, receiver.accepted, acked]
    split_ifs with eq
    · rfl
    · rw [pendData eq]

include hg

/-- A frame that is accepted as new is the pending one, and all before it are acknowledged. -/
theorem InStep.accepts {n : Nat} (hd : Carries e g data) (before : ∀ m ≤ n, InStep e g data ack m) (h : ReceiverAccepts g n) :
    acceptedCount g n = ackedCount e n ∧ (e n).pendV = true ∧ (g n).rxHold = pendFrame (e n) ∧
      ∀ m, n ≤ m → acceptedCount g n + 1 ≤ builtCount e (data m) := by
  obtain ⟨m, lt, received, -, accepted⟩ := hg.received h.hold
  obtain ⟨earlier, sends⟩ := hd.sent m _ received
  obtain ⟨pendV, frame⟩ := he.sends_data sends h.dataClass
  have built := he.built_eq (data m)
  have heldId : (g n).rxHold.id = frameId (ackedCount e (data m)) := frame ▸ he.pendId_eq pendV
  rw [pendV, Bool.toNat_true] at built
  have notLast : acceptedCount g n ≠ ackedCount e (data m) + 1 := fun same =>
    h.new ⟨(hg.lastV_iff n).mpr (by omega), ((before n le_rfl).lastId _ same).trans heldId.symm⟩
  have ahead := (before m lt.le).ahead m _ le_rfl received
  have lower := (before n le_rfl).lower
  have ackedMono := ackedCount_mono e (show data m ≤ n by omega)
  have builtMono := builtCount_mono e (show data m ≤ n by omega)
  have counts := he.built_eq n
  have toNat := Bool.toNat_le (e n).pendV
  have pending : (e n).pendV = true := Bool.toNat_eq_one.mp (by omega)
  refine ⟨by omega, pending, frame.trans (he.pendFrame_eq (by omega) (by omega) pending).symm, fun m' le => ?_⟩
  have later := builtCount_mono e (hd.mono (show m ≤ m' by omega))
  omega

/-- An acknowledgment of the pending frame is taken only after the receiver has accepted that frame. -/
theorem InStep.acked {n : Nat} (ha : Carries g e ack) (before : ∀ m ≤ n, InStep e g data ack m) (h : SenderAcked e n) :
    acceptedCount g n = ackedCount e n + 1 ∧ ∀ m, n ≤ m → ackedCount e n + 1 ≤ acceptedCount g (ack m) := by
  obtain ⟨m, lt, received, acked, -⟩ := he.received h.hold
  obtain ⟨earlier, sends⟩ := ha.sent m _ received
  obtain ⟨lastV, lastId⟩ := hg.sends_ack sends h.ackClass
  obtain ⟨i, count⟩ := Nat.exists_eq_succ_of_ne_zero ((hg.lastV_iff (ack m)).mp lastV).ne'
  have sameId : frameId i = frameId (ackedCount e n) := by
    rw [← (before (ack m) (by omega)).lastId i count, ← lastId, h.ack]
    exact he.pendId_eq h.pendV
  have ackAhead := (before m lt.le).ackAhead m _ le_rfl received
  have upper := (before n le_rfl).upper
  have built := he.built_eq n
  rw [h.pendV, Bool.toNat_true] at built
  have mono := acceptedCount_mono g (show ack m ≤ n by omega)
  have current : i = ackedCount e n := by
    rcases Nat.lt_or_ge i (ackedCount e n) with older | notOlder
    · have next : ackedCount e n = i + 1 := by omega
      exact absurd (next ▸ sameId).symm (frameId_succ_ne i)
    · omega
  refine ⟨by omega, fun m' le => ?_⟩
  have later := acceptedCount_mono g (ha.mono (show m ≤ m' by omega))
  omega

/-- The step lemma where the sender takes an acknowledgment. -/
theorem InStep.succ_of_acked {n : Nat} (ha : Carries g e ack) (before : ∀ m ≤ n, InStep e g data ack m)
    (receiver : ReceiverKeeps g n) (sender : SenderAcked e n) : InStep e g data ack (n + 1) := by
  obtain ⟨lower, upper, lastId, ⟨done, written, delivered⟩, ahead, -⟩ := before n le_rfl
  obtain ⟨current, later⟩ := InStep.acked he hg ha before sender
  have builtMono : builtCount e n ≤ builtCount e (n + 1) := builtCount_mono e n.le_succ
  have acked := sender.acked
  have accepted := receiver.accepted
  rw [← accepted] at lastId ahead
  refine ⟨by omega, by omega, receiver.lastId ▸ lastId, ⟨done ++ (e n).pendData, ?_, ?_⟩, fun m f le => ahead m f (by omega),
    fun m _ le _ => acked ▸ later m (by omega)⟩
  · rw [sender.written, written, sender.payload]; simp
  · rw [receiver.delivered, delivered, if_neg (by omega), if_pos (by omega)]; simp

/-- The step lemma where the receiver accepts a frame: no acknowledgment is taken in the same step, for none was due. -/
theorem InStep.succ_of_accepts {n : Nat} (hd : Carries e g data) (ha : Carries g e ack) (before : ∀ m ≤ n, InStep e g data ack m)
    (receiver : ReceiverAccepts g n) : InStep e g data ack (n + 1) := by
  obtain ⟨lower, upper, -, ⟨done, written, delivered⟩, -, ackAhead⟩ := before n le_rfl
  obtain ⟨current, pendV, frame, later⟩ := InStep.accepts he hg hd before receiver
  have built := he.built_eq n
  rw [pendV, Bool.toNat_true] at built
  have accepted := receiver.accepted
  rcases senderCounts (he.step n).senderStep with ⟨keeps | builds, bytes, wrote, waits⟩ | sender
  · have acked := keeps.acked
    have builtSame := keeps.built
    refine ⟨by omega, by omega, fun k count => ?_, ⟨done, ?_, ?_⟩, fun m _ le _ => accepted ▸ later m (by omega),
      fun m f le => acked ▸ ackAhead m f (by omega)⟩
    · rw [receiver.lastId, frame, show k = ackedCount e n by omega]
      exact he.pendId_eq pendV
    · rw [wrote, waits, written, List.append_assoc _ _ bytes]
    · have payload : (e (n + 1)).pendData = (e n).pendData := congrArg Frame.data keeps.frame
      rw [receiver.delivered, delivered, if_pos current, if_neg (by omega), frame, payload, List.append_nil]
      rfl
  · cases builds.noPend.symm.trans pendV
  · have := (InStep.acked he hg ha before sender).1
    omega

/-- The step lemma. -/
theorem InStep.succ {n : Nat} (hd : Carries e g data) (ha : Carries g e ack) (before : ∀ m ≤ n, InStep e g data ack m) :
    InStep e g data ack (n + 1) := by
  rcases receiverCounts (hg.step n).receiverStep with receiver | receiver
  · rcases senderCounts (he.step n).senderStep with ⟨sender, bytes, writes⟩ | sender
    · exact (before n le_rfl).succ_of_keeps he receiver sender writes
    · exact InStep.succ_of_acked he hg ha before receiver sender
  · exact InStep.succ_of_accepts he hg hd ha before receiver

theorem inStep (hd : Carries e g data) (ha : Carries g e ack) (n : Nat) : InStep e g data ack n := by
  induction n using Nat.strong_induction_on with
  | _ n ih =>
    cases n with
    | zero => exact inStep_zero he
    | succ n => exact InStep.succ he hg hd ha fun m le => ih m (Nat.lt_succ_of_le le)

end Direction

/-! ### The ends of a connection -/

section Connection

variable {acts : Nat → LinkAct} {r : Nat → Link} (hr : IsConnection acts r)

include hr

theorem IsConnection.isEndRun (x : Side) : IsEndRun (endRun r x) := by
  refine ⟨?_, fun n => ?_⟩
  · obtain ⟨l, start⟩ := hr.start
    refine ⟨l.endAt x, ?_⟩
    rw [endRun, start]
    cases x <;> rfl
  · obtain ⟨z, moves, waits⟩ := act_endStep (hr.run n) (hr.noReset n)
    rcases Side.eq_or_peer z x with rfl | rfl
    · exact moves
    · exact .inl waits

/-- Each direction of a connection without collisions is in step. -/
theorem IsConnection.inStep (noCollision : ∀ x : Side, NoCollision (endRun r x) (endRun r x.peer)) (x : Side) :
    ∃ data ack, ∀ n, InStep (endRun r x) (endRun r x.peer) data ack n := by
  obtain ⟨data, mono, sent⟩ := noCollision x
  obtain ⟨ack, mono', sent'⟩ := noCollision x.peer
  rw [Side.peer_peer] at sent'
  exact ⟨data, ack, Machine.inStep (hr.isEndRun x) (hr.isEndRun x.peer) ⟨mono, sent⟩ ⟨mono', sent'⟩⟩

end Connection

end Sys2Proof.Machine

/-! ## Under fairness every written byte arrives (O57)

While a frame is pending it is resent for ever (F5), so it is received for ever (F4), so the receiver takes it for ever and hands an
acknowledgment over each time; so the acknowledgment is received for ever too, and the sender takes one: then no frame stays pending
for ever. Every acknowledgment takes at least one byte off what waits. -/

namespace Sys2Proof.Machine

/-! ### The streams since the reset -/

theorem Effect.replies {i : Instr} {label : Byte} {s u : State} (h : Effect s i label u) : s.replies <+: u.replies := by
  cases h <;> simp

theorem State.EndStep.replies {s t : State} (h : s.EndStep t) : s.replies <+: t.replies := by
  rcases h with ⟨ag, fc, sel, hp, rl, rfl⟩ | ⟨i, label, u, v, ⟨ag, fc, sel, hp, rfl⟩, hv, rfl⟩
  · exact List.prefix_refl _
  · exact hv.replies

theorem IsEndRun.replies_mono {e : Nat → State} (he : IsEndRun e) {k n : Nat} (le : k ≤ n) : (e k).replies <+: (e n).replies := by
  induction n, le using Nat.le_induction with
  | base => exact List.prefix_refl _
  | succ n le ih => exact ih.trans (he.step n).replies

section Streams

variable {acts : Nat → LinkAct} {r : Nat → Link} (hr : IsConnection acts r)

include hr

theorem IsConnection.obsWritten (x : Side) (n : Nat) :
    (endRun r x n).obsWritten = (endRun r x 0).obsWritten ++ writtenSince r x n :=
  (List.prefix_iff_eq_append.mp (((hr.isEndRun x).replies_mono n.zero_le).flatMap _)).symm

theorem IsConnection.obsRead (x : Side) (n : Nat) : (endRun r x n).obsRead = (endRun r x 0).obsRead ++ readSince r x n :=
  (List.prefix_iff_eq_append.mp (((hr.isEndRun x).replies_mono n.zero_le).flatMap _)).symm

theorem IsConnection.written_mono (x : Side) {k n : Nat} (le : k ≤ n) : writtenSince r x k <+: writtenSince r x n := by
  rw [← List.prefix_append_right_inj (endRun r x 0).obsWritten, ← hr.obsWritten, ← hr.obsWritten]
  exact ((hr.isEndRun x).replies_mono le).flatMap _

/-- The inbound buffer is empty at the reset (10_state.md R38). -/
theorem IsConnection.delivered (x : Side) (n : Nat) :
    (endRun r x n).delivered = (endRun r x 0).delivered ++ (readSince r x n ++ (endRun r x n).ib) := by
  have empty : (endRun r x 0).ib = [] := by
    obtain ⟨s, h⟩ := (hr.isEndRun x).fresh
    rw [h]
    rfl
  simp [State.delivered, hr.obsRead x n, empty]

/-- What is delivered is the beginning of what is written (44_host_interface.md R209), and short of it by no more than what is not
acknowledged. -/
theorem IsConnection.delivered_prefix (noCollision : ∀ x : Side, NoCollision (endRun r x) (endRun r x.peer)) (x : Side) (n : Nat) :
    readSince r x.peer n ++ (endRun r x.peer n).ib <+: writtenSince r x n ∧
    (writtenSince r x n).length ≤
      (readSince r x.peer n ++ (endRun r x.peer n).ib).length + (endRun r x n).unacknowledged.length := by
  obtain ⟨data, ack, h⟩ := hr.inStep noCollision x
  obtain ⟨written, delivered, hw, hd, facts⟩ := (h n).delivered_written (hr.isEndRun x)
  rw [hr.obsWritten, List.append_cancel_left_eq] at hw
  rw [hr.delivered, List.append_cancel_left_eq] at hd
  rwa [hw, hd]

end Streams

/-! ### The invariants hold along a run that takes steps -/

theorem State.EndStep.configuration {s t : State} (h : s.EndStep t) : t.configuration = s.configuration := by
  rcases h with ⟨ag, fc, sel, hp, rl, rfl⟩ | ⟨i, label, u, v, ⟨ag, fc, sel, hp, rfl⟩, hv, rfl⟩
  · rfl
  · exact hv.configuration

theorem State.EndStep.inv {s t : State} (h : s.EndStep t) (hs : s.Inv) : t.Inv := by
  rcases h with ⟨ag, fc, sel, hp, rl, rfl⟩ | ⟨i, label, u, v, hu, hv, rfl⟩
  · exact { hs with }
  · exact (hv.inv (hu.inv hs)).logStep label

theorem State.Quiet.history {s t : State} (h : s.Quiet t) : t.history = s.history := by
  obtain ⟨ag, fc, sel, hp, rl, rfl⟩ := h
  rfl

/-- No step is taken from an illegal configuration (70_reset_and_hazards.md R251). -/
theorem act_configured {l m : Link} {x : LinkAct} {z : Side} (h : Link.act l x = .next m) (noReset : x.resets = false)
    (moved : (m.endAt z).history ≠ (l.endAt z).history) : (l.endAt z).configured = true := by
  rcases act_cases h with ⟨rfl, -⟩ | ⟨side, y, rfl, -, -, ⟨-, rfl⟩ | ⟨-, step, carried⟩⟩
  · cases noReset
  · exact absurd rfl moved
  · rcases Side.eq_or_peer side z with rfl | rfl
    · exact (step_next step).1
    · rw [carried] at moved
      exact absurd (carry_quiet _ _ _).history moved

theorem IsEndRun.configuration {e : Nat → State} (he : IsEndRun e) (n : Nat) : (e n).configuration = (e 0).configuration := by
  induction n with
  | zero => rfl
  | succ n ih => exact (he.step n).configuration.trans ih

/-- From a legal configuration every state of an end has the invariants. -/
theorem IsEndRun.inv {e : Nat → State} (he : IsEndRun e) (config : (e 0).ConfigOk) (n : Nat) : (e n).Inv := by
  induction n with
  | zero =>
    obtain ⟨s, h⟩ := he.fresh
    rw [h] at config ⊢
    exact inv_of_resetValues config
  | succ n ih => exact (he.step n).inv ih

/-- Under F1 both ends take steps, so they are configured. -/
theorem IsConnection.inv {acts : Nat → LinkAct} {r : Nat → Link} (hr : IsConnection acts r) (fair : Fair r) (x : Side) (n : Nat) :
    (endRun r x n).Inv := by
  obtain ⟨m, -, ticks⟩ := fair.timer x 0
  have configured : (endRun r x m).configured = true :=
    act_configured (hr.run m) (hr.noReset m) (by rw [show ((r (m + 1)).endAt x).history = _ from ticks]; simp [endRun])
  have same := (hr.isEndRun x).configuration m
  simp only [State.configuration, Prod.mk.injEq] at same
  obtain ⟨mtu, retry, -⟩ := same
  have config := (configured_iff _).mp configured
  rw [mtu, retry] at config
  exact (hr.isEndRun x).inv config n

/-! ### What happens for ever -/

/-- Between a place where something holds and a later one where it does not, it stops holding. -/
theorem exists_last_before {P : Nat → Prop} {a b : Nat} (le : a ≤ b) (ha : P a) (hb : ¬P b) :
    ∃ k, a ≤ k ∧ k < b ∧ P k ∧ ¬P (k + 1) := by
  induction b, le using Nat.le_induction with
  | base => exact absurd ha hb
  | succ b le ih =>
    by_cases h : P b
    · exact ⟨b, le, b.lt_succ_self, h, hb⟩
    · obtain ⟨k, ak, kb, hk⟩ := ih h
      exact ⟨k, ak, by omega, hk⟩

/-- Step `n` takes the held frame `f` (42_state_machine.md R144). -/
def TakesHeld (e : Nat → State) (f : Frame) (n : Nat) : Prop :=
  (e n).rxPhase = .hold ∧ (e n).rxHold = f ∧ (e n).ctl = .loop ∧
    ((f.id = 0#8 ∧ ((e n).pendV = true → (e n).pendId = f.ack → (e (n + 1)).pendV = false ∨ (e (n + 1)).seq ≠ (e n).seq)) ∨
     (f.id ≠ 0#8 ∧ (e (n + 1)).ctl = .ackWait ∧ (e (n + 1)).ackId = f.id))

section Forever

variable {e : Nat → State} (he : IsEndRun e)

include he

/-- A frame that is received for ever is taken for ever: RXD takes no other byte while it holds a frame (43_pumps.md R182). -/
theorem IsEndRun.takesHeld_forever {f : Frame} (receives : InfinitelyOften (Receives e f)) : InfinitelyOften (TakesHeld e f) := by
  intro n
  obtain ⟨a, na, -, hold, held⟩ := receives n
  obtain ⟨b, ab, reads, -⟩ := receives (a + 1)
  obtain ⟨k, ak, -, ⟨hold, held⟩, ends⟩ := exists_last_before
    (P := fun k => (e k).rxPhase = .hold ∧ (e k).rxHold = f) ab ⟨hold, held⟩ fun h => reads h.1
  refine ⟨k, by omega, hold, held, ?_⟩
  rcases (he.step k).holdsOrTakes hold with ⟨hold', held'⟩ | ⟨ctl, -, taken⟩
  · exact absurd ⟨hold', held'.trans held⟩ ends
  · rw [held] at taken
    exact ⟨ctl, taken⟩

/-- A data frame that is taken for ever is acknowledged for ever: the FSM is back in LOOP only after the hand-off (R147, D13). -/
theorem IsEndRun.acks_forever {f : Frame} (dataClass : f.id ≠ 0#8) (takes : InfinitelyOften (TakesHeld e f)) :
    InfinitelyOften (Sends e ⟨0#8, f.id, 0#8, []⟩) := by
  intro n
  obtain ⟨a, na, -, -, -, ack⟩ := takes n
  obtain ⟨wait, ackId⟩ := (ack.resolve_left fun h => dataClass h.1).2
  obtain ⟨b, ab, -, -, loop, -⟩ := takes (a + 1)
  obtain ⟨k, ak, -, ⟨wait, ackId⟩, ends⟩ := exists_last_before
    (P := fun k => (e k).ctl = .ackWait ∧ (e k).ackId = f.id) ab ⟨wait, ackId⟩ fun h => by cases loop.symm.trans h.1
  refine ⟨k, by omega, ?_⟩
  rcases (he.step k).awaitsOrAcks wait with ⟨wait', same⟩ | ⟨idle, busy, queue⟩
  · exact absurd ⟨wait', same.trans ackId⟩ ends
  · rw [ackFrame, ackId] at queue
    exact ⟨idle, busy, queue⟩

/-- While no acknowledgment is taken the pending frame stays. -/
theorem IsEndRun.pending_stays {n : Nat} (pendV : (e n).pendV = true) (none : ∀ m, n ≤ m → ackedCount e m ≤ ackedCount e n)
    {m : Nat} (le : n ≤ m) : (e m).pendV = true ∧ pendFrame (e m) = pendFrame (e n) := by
  induction m, le using Nat.le_induction with
  | base => exact ⟨pendV, rfl⟩
  | succ m le ih =>
    rcases senderCounts (he.step m).senderStep with ⟨keeps | builds, -⟩ | acked
    · exact ⟨keeps.pendV.trans ih.1, keeps.frame.trans ih.2⟩
    · cases builds.noPend.symm.trans ih.1
    · have := acked.acked
      have := none (m + 1) (by omega)
      have := ackedCount_mono e le
      omega

/-- A frame that stays pending is transmitted for ever (F5). -/
theorem IsEndRun.resends_forever (fair : FairResend e) {n : Nat} {f : Frame}
    (pending : ∀ m, n ≤ m → (e m).pendV = true ∧ pendFrame (e m) = f) : InfinitelyOften (Sends e f) := by
  intro k
  obtain ⟨m, le, taken, idle⟩ := fair ⟨n, fun m h => (pending m h).1⟩ (max n k)
  obtain ⟨pendV, frame⟩ := pending m (by omega)
  obtain ⟨busy, queue⟩ := (he.step m).resends taken pendV idle
  exact ⟨m, by omega, idle, busy, frame ▸ queue⟩

end Forever

/-- A pending frame is acknowledged some time (42_state_machine.md R166). -/
theorem IsConnection.acknowledged {acts : Nat → LinkAct} {r : Nat → Link} (hr : IsConnection acts r) (fair : Fair r) (x : Side)
    {n : Nat} (pendV : (endRun r x n).pendV = true) : ∃ m, n ≤ m ∧ ackedCount (endRun r x) n < ackedCount (endRun r x) m := by
  by_contra never
  have none : ∀ m, n ≤ m → ackedCount (endRun r x) m ≤ ackedCount (endRun r x) n :=
    fun m le => not_lt.mp fun lt => never ⟨m, le, lt⟩
  have he := hr.isEndRun x
  have hg := hr.isEndRun x.peer
  have pending := fun m le => he.pending_stays pendV none (m := m) le
  have dataClass : (pendFrame (endRun r x n)).id ≠ 0#8 :=
    fun zero => frameId_ne_zero _ ((he.pendId_eq pendV).symm.trans zero)
  have received := fair.channel x _ (he.resends_forever (fair.resend x) pending)
  have acks := hg.acks_forever dataClass (hg.takesHeld_forever received)
  have acked := fair.channel x.peer _ acks
  rw [Side.peer_peer] at acked
  obtain ⟨k, le, -, -, -, taken⟩ := he.takesHeld_forever acked n
  have answer := (taken.resolve_right fun h => h.1 rfl).2 (pending k le).1 (congrArg Frame.id (pending k le).2)
  have counted : ackedCount (endRun r x) (k + 1) = ackedCount (endRun r x) k + 1 := by
    rw [ackedCount, Nat.count_succ, if_pos ⟨(pending k le).1, answer⟩]
    rfl
  have := none (k + 1) (by omega)
  have := ackedCount_mono (endRun r x) le
  omega

/-- Each acknowledgment taken takes at least one byte off what waits (R150). -/
theorem IsEndRun.acked_bytes {e : Nat → State} (he : IsEndRun e) (inv : ∀ n, (e n).Inv) (n : Nat) :
    (e 0).obsWritten.length + ackedCount e n + (e n).unacknowledged.length ≤ (e n).obsWritten.length := by
  induction n with
  | zero =>
    obtain ⟨s, h⟩ := he.fresh
    simp [ackedCount, State.unacknowledged, h, freshEnd, applyReset]
  | succ n ih =>
    rcases senderCounts (he.step n).senderStep with ⟨sender, bytes, wrote, waits⟩ | sender
    · have acked : ackedCount e (n + 1) = ackedCount e n := sender.elim (·.acked) (·.acked)
      rw [acked, wrote, waits, List.length_append, List.length_append]
      omega
    · obtain ⟨-, pos, -, len⟩ := (inv n).pend sender.pendV
      have payload := congrArg List.length sender.payload
      rw [List.length_append] at payload
      rw [sender.acked, sender.written]
      omega

/-- Some time so many acknowledgments have been taken, or nothing waits. -/
theorem IsConnection.acks_reach {acts : Nat → LinkAct} {r : Nat → Link} (hr : IsConnection acts r) (fair : Fair r) (x : Side)
    (n k : Nat) : ∃ m, n ≤ m ∧ (k ≤ ackedCount (endRun r x) m ∨ (endRun r x m).unacknowledged = []) := by
  induction k with
  | zero => exact ⟨n, le_rfl, .inl (Nat.zero_le _)⟩
  | succ k ih =>
    obtain ⟨m, le, reached | empty⟩ := ih
    · cases pendV : (endRun r x m).pendV
      · have idle := (hr.inv fair x m).idle pendV
        exact ⟨m, le, .inr (by simp [State.unacknowledged, pendV, idle])⟩
      · obtain ⟨m', le', more⟩ := hr.acknowledged fair x pendV
        exact ⟨m', by omega, .inl (by omega)⟩
    · exact ⟨m, le, .inr empty⟩

/-- Settles O57: by then as many bytes are delivered as were written, and both streams begin what is written. -/
theorem everyWrittenByteArrives : Obligations.EveryWrittenByteArrives := by
  intro acts r hr fair noCollision x n
  obtain ⟨m, le, reached⟩ := hr.acks_reach fair x n (writtenSince r x n).length
  obtain ⟨isPrefix, short⟩ := hr.delivered_prefix noCollision x m
  refine ⟨m, le, List.prefix_of_prefix_length_le (hr.written_mono x le) isPrefix ?_, isPrefix⟩
  rcases reached with acked | empty
  · have bytes := (hr.isEndRun x).acked_bytes (hr.inv fair x) m
    have written := congrArg List.length (hr.obsWritten x m)
    rw [List.length_append] at written
    omega
  · have mono := (hr.written_mono x le).length_le
    rw [empty, List.length_nil] at short
    omega

end Sys2Proof.Machine

/-! ## The host port along a run

A command leaves the port only when it is serviced, and then the reply goes to its agent (44_host_interface.md R200). -/

namespace Sys2Proof.Machine

theorem outstanding_iff (agent : Nat) (s : State) : outstanding agent s = true ↔ ∃ q ∈ s.hostPort, q.agent = agent := by
  simp [outstanding]

/-- What a step from `s` to `t` can do at the host port and to the replies. -/
inductive PortStep (s t : State) : Prop
  /-- Nothing is serviced; an agent without an operation outstanding may issue one. -/
  | keeps (replies : t.replies = s.replies) (stays : ∀ q ∈ s.hostPort, q ∈ t.hostPort)
      (issued : ∀ q ∈ t.hostPort, q ∈ s.hostPort ∨ outstanding q.agent s = false)
  /-- The command at one place is serviced. -/
  | services (k : Nat) (q : HostReq) (i : Instr) (rest : List Byte) (place : s.hostPort[k]? = some q)
      (decodes : decodeHost q.cmd = .ok i rest)
      (port : t.hostPort = if rest = [] then s.hostPort.eraseIdx k else s.hostPort.set k ⟨q.agent, rest⟩)
      (reply : (∃ data, i = .hostWrite data ∧ t.replies = s.replies ++ [.wrote q.agent data]) ∨
        (∃ n, i = .hostRead n ∧ t.replies = s.replies ++ [.read q.agent (s.ib.take (readCount n s))]))

theorem PortStep.of_eq {s t : State} (replies : t.replies = s.replies) (port : t.hostPort = s.hostPort) : PortStep s t :=
  .keeps replies (fun _ h => port ▸ h) fun _ h => .inl (port ▸ h)

theorem Effect.hostPort {i : Instr} {label : Byte} {s u : State} (h : Effect s i label u) : u.hostPort = s.hostPort := by
  cases h <;> simp

/-- Only a host operation is replied to (30_encoding.md R79). -/
theorem Effect.replies_of_port {i : Instr} {label : Byte} {s u : State} (h : Effect s i label u) (notHost : i.port ≠ .host) :
    u.replies = s.replies := by
  cases h with
  | written | read => exact absurd rfl notHost
  | _ => simp

theorem exec_portStep_of_port {i : Instr} {s t : State} (h : exec i s = .next t) (notHost : i.port ≠ .host) : PortStep s t := by
  rcases exec_next h with rfl | ⟨label, u, hu, rfl⟩
  · exact .of_eq rfl rfl
  · exact .of_eq (hu.replies_of_port notHost) hu.hostPort

theorem classifyHeader_port (start h0 h1 h2 h3 : Byte) (data : List Byte) :
    (classifyHeader start h0 h1 h2 h3 data).port = .wire := by
  unfold classifyHeader
  split
  · rfl
  · exact toInstr_port _

theorem fetchByte_run_port {s u : State} {i : Instr} (run : fetchByte s = .run i u) : i.port ≠ .host ∧ u = s := by
  unfold fetchByte at run
  split at run
  · cases run; exact ⟨nofun, rfl⟩
  · split_ifs at run <;> cases run
    · exact ⟨by rw [classifyHeader_port]; nofun, rfl⟩
    · exact ⟨nofun, rfl⟩

/-- What is fetched at the port is the command at one place, as it decodes. -/
theorem fetchHost_run_inv {k : Nat} {s u : State} {i : Instr} (run : fetchHost k s = .run i u) :
    ∃ k q rest, s.hostPort[k]? = some q ∧ decodeHost q.cmd = .ok i rest ∧
      u = if fsmReady s then grantHost k q rest s else s := by
  unfold fetchHost at run
  split at run
  · cases run
  next q place =>
    split at run
    · cases run
    next j rest decodes =>
      cases run
      exact ⟨k, q, rest, place, decodes, rfl⟩

/-- A pick runs an instruction of another interface in the state as it is, or a command of the host port. -/
theorem fetchPick_run_cases {p : Pick} {s u : State} {i : Instr} (run : fetchPick p s = .run i u) :
    (i.port ≠ .host ∧ u = s) ∨
    (∃ k q rest, s.hostPort[k]? = some q ∧ decodeHost q.cmd = .ok i rest ∧
      u = if fsmReady s then grantHost k q rest s else s) := by
  have held (run : fetchHeld s = .run i u) : i.port ≠ .host ∧ u = s := by
    rcases fetchHeld_cases s with e | ⟨-, e⟩ <;> cases e.symm.trans run
    exact ⟨by simp, rfl⟩
  cases p with
  | serve k => exact .inr (fetchHost_run_inv run)
  | take => exact .inl (held run)
  | agent b =>
    simp only [fetchPick, fetchLabel] at run
    split_ifs at run
    · exact .inr (fetchHost_run_inv (ofLabel_run run))
    · exact .inl (held (ofLabel_run run))
    · exact .inl (fetchByte_run_port run)
    · split at run <;> cases run
      next decodes =>
        have port : i.port = .label := (decodeLabel_encodes 0#8 decodes).1
        exact .inl ⟨by simp [port], rfl⟩

/-- A command of the port is serviced in LOOP, and waits outside. -/
theorem execCommand_portStep {s t : State} {k : Nat} {q : HostReq} {i : Instr} {rest : List Byte} (place : s.hostPort[k]? = some q)
    (decodes : decodeHost q.cmd = .ok i rest) (h : exec i (if fsmReady s then grantHost k q rest s else s) = .next t) :
    PortStep s t := by
  obtain ⟨port, -, -⟩ := decodeHost_encodes 0#8 decodes
  by_cases ctl : s.ctl = .loop
  · have ready : fsmReady s = true := beq_iff_eq.mpr ctl
    rw [if_pos ready] at h
    cases i with
    | hostWrite data =>
      rcases execHostWrite_cases data (grantHost k q rest s) with ⟨wait, -⟩ | ⟨-, e⟩
      · exact absurd ctl wait
      · cases e.symm.trans h
        exact .services k q _ rest place decodes (by simp) (.inl ⟨data, rfl, by simp⟩)
    | hostRead n =>
      rcases execHostRead_cases n (grantHost k q rest s) with ⟨wait, -⟩ | ⟨-, e⟩
      · exact absurd ctl wait
      · cases e.symm.trans h
        exact .services k q _ rest place decodes (by simp) (.inr ⟨n, rfl, rfl⟩)
    | hostReserved op => cases h
    | _ => cases port
  · have busy : ¬fsmReady s = true := by simpa [fsmReady] using ctl
    rw [if_neg busy] at h
    cases i with
    | hostWrite data =>
      rcases execHostWrite_cases data s with ⟨-, e⟩ | ⟨loop, -⟩
      · cases e.symm.trans h; exact .of_eq rfl rfl
      · exact absurd loop ctl
    | hostRead n =>
      rcases execHostRead_cases n s with ⟨-, e⟩ | ⟨loop, -⟩
      · cases e.symm.trans h; exact .of_eq rfl rfl
      · exact absurd loop ctl
    | hostReserved op => cases h
    | _ => cases port

theorem fetchPick_portStep {p : Pick} {s u t : State} {i : Instr} (run : fetchPick p s = .run i u) (h : exec i u = .next t) :
    PortStep s t := by
  rcases fetchPick_run_cases run with ⟨notHost, rfl⟩ | ⟨k, q, rest, place, decodes, rfl⟩
  · exact exec_portStep_of_port h notHost
  · exact execCommand_portStep place decodes h

theorem fetchEnv_portStep {z : Side} {e : Env} {s t : State} (h : fetchEnv e s = .done t)
    (noReset : LinkAct.resets (.endpoint z (.env e)) = false) : PortStep s t := by
  cases e with
  | issue a cmd =>
    cases h
    cases busy : outstanding a s
    · refine .keeps rfl (fun q hq => ?_) fun q hq => ?_
      · rw [outstanding] at busy
        simp [busy, hq]
      · rw [outstanding] at busy
        rw [busy, if_neg Bool.false_ne_true, List.mem_append, List.mem_singleton] at hq
        rcases hq with old | rfl
        · exact .inl old
        · exact .inr busy
    · exact .of_eq rfl (if_pos busy)
  | reset | config => cases noReset
  | offer | drop | alter | noise => cases h; exact .of_eq rfl rfl

/-- The agenda an act is put on is no part of the port. -/
theorem PortStep.of_agenda {s t : State} {ag : List Act} (h : PortStep { s with agenda := ag } t) : PortStep s t := by
  cases h with
  | keeps replies stays issued => exact .keeps replies stays issued
  | services k q i rest place decodes port reply => exact .services k q i rest place decodes port reply

/-- A step with one entry on the agenda. -/
theorem step_portStep {z : Side} {s t : State} {y : Act} (h : step { s with agenda := [y] } = .next t) (noSettle : y ≠ .settle)
    (noReset : LinkAct.resets (.endpoint z y) = false) : PortStep s t := by
  refine .of_agenda (ag := []) ?_
  have fetched := fetch_agenda (s := { s with agenda := [y] }) (step_next h).1 rfl
  simp only [step, fetched] at h
  cases y with
  | settle => exact absurd rfl noSettle
  | pick p =>
    cases run : fetchPick p { s with agenda := [] } with
    | run i u =>
      simp only [fetchAct, run] at h
      exact fetchPick_portStep run h
    | done u =>
      simp only [fetchAct, run] at h
      cases h
      rcases fetchPick_cases p { s with agenda := [] } with e | ⟨_, _, _, e, -⟩ | ⟨_, -, e⟩ <;> cases e.symm.trans run
      exact .of_eq rfl rfl
    | refuse reason => simp only [fetchAct, run] at h; cases h
  | env e =>
    cases done : fetchEnv e { s with agenda := [] } with
    | run i u =>
      rcases fetchEnv_cases e { s with agenda := [] } with ⟨_, e'⟩ | ⟨_, _, _, -, -, e'⟩ <;> cases e'.symm.trans done
    | done u =>
      simp only [fetchAct, done] at h
      cases h
      exact fetchEnv_portStep done noReset
    | refuse reason => simp only [fetchAct, done] at h; cases h

theorem act_portStep {l m : Link} {x : LinkAct} (h : Link.act l x = .next m) (noReset : x.resets = false) (z : Side) :
    PortStep (l.endAt z) (m.endAt z) := by
  rcases act_cases h with ⟨rfl, -⟩ | ⟨side, y, rfl, -, -, ⟨-, rfl⟩ | ⟨allowed, step, carried⟩⟩
  · cases noReset
  · exact .of_eq rfl rfl
  · rcases Side.eq_or_peer side z with rfl | rfl
    · exact step_portStep step (by rintro rfl; cases allowed) noReset
    · exact carried ▸ .of_eq rfl rfl

end Sys2Proof.Machine

/-! ## A host that reads for ever gets every byte (O58)

While the driver is in a `Read`, its agent's only command at the port is that HOST_READ, so that a service of the agent takes bytes
from the inbound buffer, if there are any. And an agent whose driver reads for ever is serviced for ever: by F6 if one `Read` never
returns, and otherwise because each `Read` has to issue its command and see it gone before it can return. -/

namespace Sys2Proof.Machine

/-- An operation is outstanding only while the driver waits, and in a `Read` it is that call's HOST_READ (44_host_interface.md R200,
R203). -/
structure DriverOk (agent : Nat) (d : Driver) (s : State) : Prop where
  waits   : outstanding agent s = true → ∃ c, d = .waiting c
  command : ∀ len, d = .waiting (.read len) → ∀ q ∈ s.hostPort, q.agent = agent → decodeHost q.cmd = .ok (.hostRead len) []

theorem DriverOk.of_not_outstanding {agent : Nat} {d : Driver} {s : State} (h : outstanding agent s = false) : DriverOk agent d s := by
  refine ⟨fun busy => ?_, fun _ _ q hq own => ?_⟩
  · cases h.symm.trans busy
  · cases h.symm.trans ((outstanding_iff agent s).mpr ⟨q, hq, own⟩)

/-- The driver's own step issues its call's command, where none is outstanding, and otherwise leaves the block alone. -/
theorem Driver.step_cases (agent : Nat) (d : Driver) (s : State) :
    (Driver.step agent d s).2 = s ∧ (outstanding agent s = true → (Driver.step agent d s).1 = d ∨ ∀ c, d ≠ .waiting c) ∨
    (∃ c, d = .issuing c ∧ outstanding agent s = false ∧
      Driver.step agent d s = (.waiting c, { s with hostPort := s.hostPort ++ [⟨agent, encode s.cfgStart c.command⟩] })) := by
  cases d with
  | issuing c =>
    cases busy : outstanding agent s
    · exact .inr ⟨c, rfl, rfl, by simp [Driver.step, busy]⟩
    · exact .inl ⟨by simp [Driver.step, busy], fun _ => .inr nofun⟩
  | waiting c =>
    cases busy : outstanding agent s
    · exact .inl ⟨by simp [Driver.step, busy], nofun⟩
    · exact .inl ⟨by simp [Driver.step, busy], fun _ => .inl (by simp [Driver.step, busy])⟩
  | backoff len => exact .inl ⟨rfl, fun _ => .inr nofun⟩
  | readDone data => exact .inl ⟨rfl, fun _ => .inr nofun⟩
  | writeDone n => exact .inl ⟨rfl, fun _ => .inr nofun⟩

theorem DriverOk.driverStep {agent : Nat} {d : Driver} {s : State} (h : DriverOk agent d s) :
    DriverOk agent (Driver.step agent d s).1 (Driver.step agent d s).2 := by
  rcases Driver.step_cases agent d s with ⟨same, stays⟩ | ⟨c, rfl, free, e⟩
  · rw [same]
    cases busy : outstanding agent s
    · exact .of_not_outstanding busy
    · obtain ⟨c, wait⟩ := h.waits busy
      rw [(stays busy).resolve_right fun other => other c wait]
      exact h
  · rw [e]
    refine ⟨fun _ => ⟨c, rfl⟩, fun len wait q hq own => ?_⟩
    cases wait
    rcases List.mem_append.mp hq with old | new
    · cases free.symm.trans ((outstanding_iff agent s).mpr ⟨q, old, own⟩)
    · rw [List.mem_singleton.mp new]
      have decodes := decodeHost_read len []
      rw [List.append_nil] at decodes
      exact decodes

/-- The block's own step, in which nobody issues as this agent. -/
theorem DriverOk.portStep {agent : Nat} {d : Driver} {s t : State} (h : DriverOk agent d s) (port : PortStep s t)
    (noIssue : outstanding agent t = true → outstanding agent s = true) : DriverOk agent d t := by
  refine ⟨fun busy => h.waits (noIssue busy), fun len wait q hq own => ?_⟩
  have known := h.command len wait
  cases port with
  | keeps replies stays issued =>
    rcases issued q hq with old | free
    · exact known q old own
    · rw [own] at free
      cases free.symm.trans (noIssue ((outstanding_iff agent t).mpr ⟨q, hq, own⟩))
  | services k p i rest place decodes port reply =>
    rw [port] at hq
    split_ifs at hq with last
    · exact known q (List.mem_of_mem_eraseIdx hq) own
    · rcases List.mem_or_eq_of_mem_set hq with old | rfl
      · exact known q old own
      · cases decodes.symm.trans (known p (List.mem_of_getElem? place) own)
        exact absurd rfl last

/-- From `s` to `t` a command of this agent is serviced. -/
def Serves (agent : Nat) (s t : State) : Prop :=
  ∃ q ∈ s.hostPort, q.agent = agent ∧ ∃ i rest, decodeHost q.cmd = .ok i rest ∧
    ((∃ data, i = .hostWrite data ∧ t.replies = s.replies ++ [.wrote agent data]) ∨
     (∃ n, i = .hostRead n ∧ t.replies = s.replies ++ [.read agent (s.ib.take (readCount n s))]))

/-- A command that leaves the port has been serviced. -/
theorem PortStep.serves_of_gone {agent : Nat} {s t : State} (h : PortStep s t) (busy : outstanding agent s = true)
    (free : outstanding agent t = false) : Serves agent s t := by
  obtain ⟨q, hq, own⟩ := (outstanding_iff agent s).mp busy
  have gone : q ∉ t.hostPort := fun stays => by cases free.symm.trans ((outstanding_iff agent t).mpr ⟨q, stays, own⟩)
  cases h with
  | keeps replies stays issued => exact absurd (stays q hq) gone
  | services k p i rest place decodes port reply =>
    have same : p.agent = agent := by
      by_contra ne
      obtain ⟨j, found⟩ := List.getElem?_of_mem hq
      have apart : k ≠ j := by
        rintro rfl
        cases place.symm.trans found
        exact ne own
      apply gone
      rw [port]
      split_ifs
      · exact List.mem_eraseIdx_iff_getElem?.mpr ⟨j, apart.symm, found⟩
      · exact List.mem_of_getElem? ((List.getElem?_set_ne apart).trans found)
    exact ⟨p, List.mem_of_getElem? place, same, i, rest, decodes, same ▸ reply⟩

/-- A reply to a read has been given to a command of its agent. -/
theorem PortStep.serves_of_reply {agent : Nat} {s t : State} {data : List Byte} (h : PortStep s t)
    (reply : t.replies = s.replies ++ [.read agent data]) : Serves agent s t := by
  cases h with
  | keeps replies stays issued => simp [replies] at reply
  | services k p i rest place decodes port reply' =>
    have same : p.agent = agent := by
      rcases reply' with ⟨_, -, e⟩ | ⟨_, -, e⟩ <;> rw [e] at reply <;> simp at reply
      exact reply.1
    exact ⟨p, List.mem_of_getElem? place, same, i, rest, decodes, same ▸ reply'⟩

/-- A HOST_READ of some length takes a byte if there is one (42_state_machine.md R143). -/
theorem readCount_pos {n : U32} {s : State} (nonempty : n ≠ 0#32) (bytes : s.ib ≠ []) :
    0 < (s.ib.take (readCount n s)).length := by
  have pos : 0 < n.toNat := Nat.pos_of_ne_zero fun z => nonempty (BitVec.eq_of_toNat_eq z)
  have len : 0 < s.ib.length := List.length_pos_iff.mpr bytes
  rw [List.length_take, readCount]
  omega

/-- The driver's own step begins no `Read`. -/
theorem Driver.step_readLength (agent : Nat) {d : Driver} (h : d.readLength = none) (s : State) :
    (Driver.step agent d s).1.readLength = none := by
  cases d with
  | issuing c =>
    cases c with
    | read len => cases h
    | write buffer => cases busy : outstanding agent s <;> simp [Driver.step, busy, Driver.readLength]
  | waiting c =>
    cases c with
    | read len => cases h
    | write buffer =>
      cases busy : outstanding agent s
      · simp only [Driver.step, busy, if_neg Bool.false_ne_true]
        rcases lastReply agent s with _ | ⟨_, _⟩ | ⟨_, _⟩ <;> rfl
      · simp [Driver.step, busy, Driver.readLength]
  | backoff len => cases h
  | readDone data => rfl
  | writeDone n => rfl

/-- The driver of this agent beside an end whose port is used as R200 says, and whose `Read` calls have buffers that are not empty. -/
structure Reads (agent : Nat) (d : Nat → Driver) (g : Nat → State) : Prop where
  driven   : DrivenBy agent d g
  port     : ∀ n, PortStep (g n) (g (n + 1))
  free     : outstanding agent (g 0) = false
  nonempty : ∀ n, (d n).readLength ≠ some 0#32

/-- The driver is in a `Read` whose HOST_READ has not been serviced yet. -/
def ReadDue (agent : Nat) (d : Driver) (s : State) : Prop :=
  (∃ len, d = .issuing (.read len)) ∨ (∃ len, d = .waiting (.read len) ∧ outstanding agent s = true)

section Reader

variable {agent : Nat} {d : Nat → Driver} {g : Nat → State} (h : Reads agent d g)

include h

theorem Reads.driverOk (n : Nat) : DriverOk agent (d n) (g n) := by
  induction n with
  | zero => exact .of_not_outstanding h.free
  | succ n ih =>
    rcases h.driven n with e | ⟨same, noIssue⟩ | ⟨returned, same, c, -⟩
    · have next := ih.driverStep
      rw [← e] at next
      exact next
    · rw [same]
      exact ih.portStep (h.port n) noIssue
    · rw [same]
      refine .of_not_outstanding (Bool.eq_false_iff.mpr fun busy => ?_)
      obtain ⟨c, wait⟩ := ih.waits busy
      rw [wait] at returned
      cases returned

/-- Where the driver is in a `Read`, a service of its agent is of that HOST_READ, and gives a byte if there is one. -/
theorem Reads.gives_byte {n : Nat} (serves : Serves agent (g n) (g (n + 1))) (reading : (d n).readLength ≠ none)
    (bytes : (g n).ib ≠ []) : (g n).obsRead.length < (g (n + 1)).obsRead.length := by
  obtain ⟨q, mem, own, i, rest, decodes, reply⟩ := serves
  obtain ⟨c, wait⟩ := (h.driverOk n).waits ((outstanding_iff agent _).mpr ⟨q, mem, own⟩)
  cases c with
  | write buffer => exact absurd (wait ▸ rfl) reading
  | read len =>
    have nonempty : len ≠ 0#32 := fun z => h.nonempty n (by rw [wait, z]; rfl)
    cases decodes.symm.trans ((h.driverOk n).command len wait q mem own)
    rcases reply with ⟨data, no, -⟩ | ⟨l, e, reply⟩
    · cases no
    · cases e
      have := readCount_pos nonempty bytes
      simp only [State.obsRead, reply, List.flatMap_append, List.length_append, List.flatMap_singleton, Reply.readData]
      omega

/-- A `Read` that has just begun is about to issue its command. -/
theorem Reads.begins {n : Nat} (before : (d n).readLength = none) (after : (d (n + 1)).readLength ≠ none) :
    ReadDue agent (d (n + 1)) (g (n + 1)) := by
  rcases h.driven n with e | ⟨same, -⟩ | ⟨-, -, c, issues⟩
  · exact absurd (congrArg (·.1.readLength) e |>.trans (Driver.step_readLength agent before (g n))) after
  · exact absurd (same ▸ before) after
  · rw [issues] at after ⊢
    cases c with
    | read len => exact .inl ⟨len, rfl⟩
    | write buffer => exact absurd rfl after

/-- A `Read` goes on until its HOST_READ is serviced. -/
theorem Reads.serves_of_done {n : Nat} (due : ReadDue agent (d n) (g n)) (done : ¬ReadDue agent (d (n + 1)) (g (n + 1))) :
    Serves agent (g n) (g (n + 1)) ∧ (d n).readLength ≠ none := by
  rcases due with ⟨len, issuing⟩ | ⟨len, waiting, busy⟩
  · exfalso
    rcases h.driven n with e | ⟨same, -⟩ | ⟨returned, -⟩
    · rw [issuing] at e
      cases busy : outstanding agent (g n)
      · simp only [Driver.step, busy, if_neg Bool.false_ne_true, Prod.mk.injEq] at e
        exact done (.inr ⟨len, e.1, by simp [e.2, outstanding]⟩)
      · obtain ⟨c, wait⟩ := (h.driverOk n).waits busy
        cases issuing.symm.trans wait
    · exact done (.inl ⟨len, same.trans issuing⟩)
    · rw [issuing] at returned
      cases returned
  · have reading : (d n).readLength ≠ none := by rw [waiting]; nofun
    rcases h.driven n with e | ⟨same, -⟩ | ⟨returned, -⟩
    · rw [waiting, Driver.step, if_pos busy, Prod.mk.injEq] at e
      exact absurd (.inr ⟨len, e.1, e.2 ▸ busy⟩) done
    · refine ⟨(h.port n).serves_of_gone busy (Bool.eq_false_iff.mpr fun busy' => done ?_), reading⟩
      exact .inr ⟨len, same.trans waiting, busy'⟩
    · rw [waiting] at returned
      cases returned

/-- The agent of a driver that reads for ever is serviced for ever while it reads. -/
theorem Reads.serves_forever (polls : FairPolling agent d g) (reads : InfinitelyOften fun n => (d n).readLength ≠ none) :
    InfinitelyOften fun n => Serves agent (g n) (g (n + 1)) ∧ (d n).readLength ≠ none := by
  intro n
  by_cases stays : ∃ a, ∀ m, a ≤ m → (d m).readLength ≠ none
  · obtain ⟨a, reading⟩ := stays
    obtain ⟨m, le, data, reply⟩ := polls ⟨a, reading⟩ (max a n)
    exact ⟨m, by omega, (h.port m).serves_of_reply reply, reading m (by omega)⟩
  · push Not at stays
    obtain ⟨a, na, outside⟩ := stays n
    obtain ⟨b, ab, inside⟩ := reads a
    obtain ⟨c, bc, outside'⟩ := stays b
    obtain ⟨k, ak, kb, before, after⟩ := exists_last_before (P := fun k => (d k).readLength = none) ab outside inside
    have returned : ¬ReadDue agent (d c) (g c) := by
      rintro (⟨len, e⟩ | ⟨len, e, -⟩) <;> rw [e] at outside' <;> cases outside'
    obtain ⟨m, km, -, due, done⟩ := exists_last_before (P := fun m => ReadDue agent (d m) (g m)) (show k + 1 ≤ c by omega)
      (h.begins before after) returned
    exact ⟨m, by omega, h.serves_of_done due done⟩

end Reader

theorem IsConnection.delivered_mono {acts : Nat → LinkAct} {r : Nat → Link} (hr : IsConnection acts r) (x : Side) {k n : Nat}
    (le : k ≤ n) : (endRun r x k).delivered <+: (endRun r x n).delivered := by
  induction n, le using Nat.le_induction with
  | base => exact List.prefix_refl _
  | succ n le ih =>
    refine ih.trans ?_
    rcases receiverCounts ((hr.isEndRun x).step n).receiverStep with keeps | accepts
    · exact keeps.delivered ▸ List.prefix_refl _
    · exact accepts.delivered ▸ List.prefix_append _ _

/-- Some time the hosts have read so many bytes, or all that has been delivered by then. -/
theorem IsConnection.reads_reach {acts : Nat → LinkAct} {r : Nat → Link} (hr : IsConnection acts r) (x : Side) {agent : Nat}
    {d : Nat → Driver} (h : Reads agent d (endRun r x))
    (serves : InfinitelyOften fun n => Serves agent (endRun r x n) (endRun r x (n + 1)) ∧ (d n).readLength ≠ none) (n k : Nat) :
    ∃ m, n ≤ m ∧ (k ≤ (readSince r x m).length ∨ (endRun r x m).ib = []) := by
  induction k with
  | zero => exact ⟨n, le_rfl, .inl (Nat.zero_le _)⟩
  | succ k ih =>
    obtain ⟨m, le, reached | empty⟩ := ih
    · obtain ⟨a, ma, served, reading⟩ := serves m
      by_cases bytes : (endRun r x a).ib = []
      · exact ⟨a, by omega, .inr bytes⟩
      · have more := h.gives_byte served reading bytes
        have mono := (((hr.isEndRun x).replies_mono ma).flatMap Reply.readData).length_le
        change (endRun r x m).obsRead.length ≤ (endRun r x a).obsRead.length at mono
        rw [hr.obsRead x m, hr.obsRead x a, List.length_append, List.length_append] at mono
        rw [hr.obsRead x a, hr.obsRead x (a + 1), List.length_append, List.length_append] at more
        exact ⟨a + 1, by omega, .inl (by omega)⟩
    · exact ⟨m, le, .inr empty⟩

/-- Settles O58: what has been written is delivered (O57), and from then on it is the beginning of what is delivered, of which the hosts
read ever more. -/
theorem readersGetEveryByte : Obligations.ReadersGetEveryByte := by
  intro acts r x agent d hr fair noCollision driven free _ polls reading nonempty n
  obtain ⟨a, na, arrived, -⟩ := everyWrittenByteArrives acts r hr fair noCollision x n
  have h : Reads agent d (endRun r x.peer) :=
    ⟨driven, fun k => act_portStep (hr.run k) (hr.noReset k) x.peer, free, nonempty⟩
  obtain ⟨m, am, reached⟩ := hr.reads_reach x.peer h (h.serves_forever polls reading) a (writtenSince r x n).length
  have later : writtenSince r x n <+: readSince r x.peer m ++ (endRun r x.peer m).ib := by
    have mono := hr.delivered_mono x.peer am
    rw [hr.delivered, hr.delivered x.peer m, List.prefix_append_right_inj] at mono
    exact arrived.trans mono
  refine ⟨m, by omega, ?_⟩
  rcases reached with enough | empty
  · exact List.prefix_of_prefix_length_le later (List.prefix_append _ _) enough
  · simpa [empty] using later

end Sys2Proof.Machine

/-! ## The pumps' failures and emissions, and what the link carries (O33, O34, O55) -/

namespace Sys2Proof.Machine

/-- Settles O33: RX_IOERR ends the attempt where RXD reads; in phase HOLD it waits, as RX_BYTE does (O21), and no header ends there. -/
theorem receiveFailureAbortsUnlessHolding : Obligations.ReceiveFailureAbortsUnlessHolding := by
  refine ⟨fun s reads => ?_, fun s hold => ?_⟩
  · exact ((execRxIoerr_cases s).resolve_left fun ⟨hold, _⟩ => reads hold).2
  · obtain ⟨-, -, -, -, -, -, rxByteWaits, rxIoerrWaits, -, -⟩ := stepsWaitWhereNotEnabled.2 s
    refine ⟨rxByteWaits (.inl hold), rxIoerrWaits hold, fun h0 h1 h2 h3 => ?_⟩
    exact (execFrameBadStart_cases h0 h1 h2 h3 s).resolve_right fun ⟨_, hdr, _⟩ => nomatch hold.symm.trans hdr

/-- TX_BYTE with a byte to send (43_pumps.md R185). -/
theorem exec_txByte {s : State} {b : Byte} {rest : List Byte} (busy : s.txBusy = true) (queue : s.txQ = b :: rest) :
    exec .txByte s = .next (logStep 0x90#8 { s with obsTx := s.obsTx ++ [b], txQ := rest, txBusy := !rest.isEmpty }) := by
  rcases execTxByte_cases s with ⟨idle | empty, -⟩ | ⟨b', rest', -, queue', e⟩
  · cases busy.symm.trans idle
  · cases queue.symm.trans empty
  · cases queue.symm.trans queue'
    exact e

/-- Settles O34: TXD stays busy while a byte is left; TX_ERR leaves none; an idle TXD waits (O21). -/
theorem transmitEmitsOrDrops : Obligations.TransmitEmitsOrDrops := by
  intro s
  obtain ⟨-, -, -, -, -, -, -, -, txByteWaits, txErrWaits⟩ := stepsWaitWhereNotEnabled.2 s
  refine ⟨fun b rest busy queue => ?_, fun busy => ?_, fun idle => ⟨txByteWaits (.inl idle), txErrWaits idle⟩⟩
  · have left : (!rest.isEmpty) = decide (rest ≠ []) := by cases rest <;> rfl
    rw [exec_txByte busy queue, left]
    rfl
  · exact ((execTxErr_cases s).resolve_left fun ⟨idle, _⟩ => nomatch busy.symm.trans idle).2

/-! ### The link -/

/-- The link's agenda is no part of either end. -/
@[simp] theorem endAt_agenda (l : Link) (more : List LinkAct) (x : Side) : ({ l with agenda := more } : Link).endAt x = l.endAt x := by
  cases x <;> rfl

theorem link_step_agenda {l : Link} {x : LinkAct} {more : List LinkAct} (ha : l.agenda = x :: more) :
    Link.step l = Link.act { l with agenda := more } x := by
  simp only [Link.step, ha]

/-- What the peer is offered more is what the step emits. -/
theorem carry_emitted {s t : State} {bytes : List Byte} (emits : t.obsTx = s.obsTx ++ bytes) (peer : State) :
    carry s t peer = { peer with rxLine := peer.rxLine ++ bytes } := by
  simp [carry, emits]

/-- Settles O55: an act the link does not allow emits nothing; any other is a step, which only appends to what its end has emitted
(`step_observationGrows`), and the link carries what it appends. -/
theorem linkCarriesEmittedBytes : Obligations.LinkCarriesEmittedBytes := by
  intro l m side x more ha h
  rw [link_step_agenda ha] at h
  rcases act_cases h with ⟨isReset, -⟩ | ⟨z, y, e, cap, agenda, waits | ⟨-, stepped, carried⟩⟩
  · cases isReset
  · cases e
    obtain ⟨-, rfl⟩ := waits
    exact ⟨cap, agenda, [], by simp⟩
  · cases e
    rw [endAt_agenda] at stepped
    rw [endAt_agenda, endAt_agenda] at carried
    obtain ⟨bytes, emits⟩ := (step_observationGrows stepped).tx
    exact ⟨cap, agenda, bytes, emits.symm, carried.trans (carry_emitted emits.symm _)⟩

end Sys2Proof.Machine

/-! ## The stream interface: order of the bytes, an empty `Read`, and `Write` (O56, O59, O60) -/

namespace Sys2Proof.Machine

/-- Settles O56: each direction of the connection is in step (`IsConnection.inStep`), whether it is fair or not. -/
theorem streamsArePrefixes : Obligations.StreamsArePrefixes := by
  intro acts r hr noCollision x n
  exact (hr.delivered_prefix noCollision x n).1

/-! ### The driver and its replies -/

/-- The reply given last is the one its agent sees. -/
theorem lastReply_of_append {s t : State} {r : Reply} (replies : t.replies = s.replies ++ [r]) : lastReply r.agent t = some r := by
  simp [lastReply, replies]

theorem Driver.step_issuing_free {agent : Nat} {s : State} (c : Call) (free : outstanding agent s = false) :
    Driver.step agent (.issuing c) s =
      (.waiting c, { s with hostPort := s.hostPort ++ [⟨agent, encode s.cfgStart c.command⟩] }) := by
  simp [Driver.step, free]

theorem Driver.step_waiting_free {agent : Nat} {s : State} (c : Call) (free : outstanding agent s = false) :
    Driver.step agent (.waiting c) s = (Driver.onReply c (lastReply agent s), s) := by
  simp [Driver.step, free]

theorem outstanding_of_idle {s : State} (agent : Nat) (idle : s.hostPort = []) : outstanding agent s = false := by
  simp [outstanding, idle]

/-! ### `Read` of an empty buffer -/

/-- The driver is in a `Read` of a buffer of this length, and has not returned (44_host_interface.md R203). -/
def Driver.Polls (len : U32) (d : Driver) : Prop :=
  d = .issuing (.read len) ∨ d = .waiting (.read len) ∨ d = .backoff len

/-- A reply without bytes does not end a `Read` (R203). -/
theorem Driver.onReply_polls {len : U32} {reply : Option Reply} (empty : ∀ r, reply = some r → r.readData = []) :
    (Driver.onReply (.read len) reply).Polls len := by
  rcases reply with _ | ⟨agent, data⟩ | ⟨agent, data⟩
  · exact .inr (.inl rfl)
  · exact .inr (.inl rfl)
  · obtain rfl : data = [] := empty _ rfl
    exact .inr (.inr rfl)

/-- A `Read` goes on in every step in which the reply it takes, if it takes one, has no bytes. -/
theorem Driver.step_polls {agent : Nat} {len : U32} {d : Driver} {s : State} (polls : d.Polls len)
    (empty : d = .waiting (.read len) → outstanding agent s = false → ∀ r, lastReply agent s = some r → r.readData = []) :
    (Driver.step agent d s).1.Polls len := by
  rcases polls with rfl | rfl | rfl
  · cases busy : outstanding agent s
    · rw [Driver.step_issuing_free _ busy]
      exact .inr (.inl rfl)
    · rw [Driver.step, if_pos busy]
      exact .inl rfl
  · cases busy : outstanding agent s
    · rw [Driver.step_waiting_free _ busy]
      exact Driver.onReply_polls (empty rfl busy)
    · rw [Driver.step, if_pos busy]
      exact .inr (.inl rfl)
  · exact .inl rfl

/-- Settles O59: HOST_READ(0) takes and replies no bytes, and on such a reply a `Read` of any length polls again. -/
theorem readOfNothingNeverReturns : Obligations.ReadOfNothingNeverReturns := by
  refine ⟨fun s ctl => ?_, fun agent d s polls empty => Driver.step_polls polls empty⟩
  obtain ⟨read, -⟩ := hostReadDrainsFront s 0#32 ctl
  rw [show min (0#32).toNat s.ib.length = 0 from Nat.zero_min _] at read
  exact ⟨_, read, rfl, rfl, lastReply_of_append (s := s) (r := .read s.hostSel []) rfl⟩

/-! ### `Write` -/

/-- In LOOP, HOST_WRITE appends its bytes to the outbound stream, replies them, and takes nothing from the port (42_state_machine.md
R142). -/
theorem exec_hostWrite_loop {s : State} (data : List Byte) (ctl : s.ctl = .loop) :
    ∃ t, exec (.hostWrite data) s = .next t ∧ t.hostPort = s.hostPort ∧ t.unacknowledged = s.unacknowledged ++ data ∧
      t.replies = s.replies ++ [.wrote s.hostSel data] := by
  rcases execHostWrite_cases data s with ⟨wait, -⟩ | ⟨-, e⟩
  · exact absurd ctl wait
  · exact ⟨_, e, by simp, unacknowledged_written data s, by simp⟩

/-- Where a whole HOST_WRITE is all that waits at the port, the step that serves it in LOOP empties the port and replies to its
agent. -/
theorem step_serve_hostWrite {s : State} {agent : Nat} {data : List Byte} (len : data.length < 2 ^ 32)
    (configured : s.configured = true) (ctl : s.ctl = .loop) (agenda : s.agenda = [.pick (.serve 0)])
    (port : s.hostPort = [⟨agent, encode s.cfgStart (.hostWrite data)⟩]) :
    ∃ t, step s = .next t ∧ t.hostPort = [] ∧ t.unacknowledged = s.unacknowledged ++ data ∧
      t.replies = s.replies ++ [.wrote agent data] := by
  have decodes := decodeReadsBackEveryEncoding s.cfgStart (.hostWrite data) [] (decide_eq_true len)
  rw [List.append_nil] at decodes
  obtain ⟨-, command, -⟩ := stepRunsDecodedInstruction
  obtain ⟨served, -⟩ := command s (.serve 0) 0 ⟨agent, encode s.cfgStart (.hostWrite data)⟩ (.hostWrite data) [] [] (.inl rfl)
    configured agenda (by rw [port]; rfl) decodes
  rw [served ctl rfl, port]
  exact exec_hostWrite_loop data ctl

/-- Settles O60: the command leaves the port, and the reply to the driver has all the bytes of the buffer. -/
theorem writeReturnsItsLength : Obligations.WriteReturnsItsLength := by
  intro agent s buffer len configured ctl idle
  rw [Driver.step_issuing_free _ (outstanding_of_idle agent idle), idle]
  obtain ⟨t, served, port, grows, replies⟩ := step_serve_hostWrite (agent := agent)
    (s := { s with hostPort := [⟨agent, encode s.cfgStart (.hostWrite buffer)⟩], agenda := [.pick (.serve 0)] })
    len configured ctl rfl rfl
  have reply : lastReply agent t = some (.wrote agent buffer) := lastReply_of_append replies
  refine ⟨t, rfl, served, port, grows, ?_⟩
  rw [Driver.step_waiting_free _ (outstanding_of_idle agent port), reply]
  rfl

end Sys2Proof.Machine

/-! ## What the steps of each agent leave unchanged (O35, O36, O37, O38)

Each element of the state has its writers among the agents (20_memory.md R60-R62). -/

namespace Sys2Proof

/-- Whether the instruction is a step of the FSM, and not of RXD, TXD or TMR. -/
def Instr.ofFsm : Instr → Bool
  | .frameBadStart _ _ _ _ | .rxByte | .rxIoerr | .txByte | .txErr | .tmrTick => false
  | _ => true

theorem Instr.ofFsm_of_ne {i : Instr} (badStart : ∀ h0 h1 h2 h3, i ≠ .frameBadStart h0 h1 h2 h3) (rxByte : i ≠ .rxByte)
    (rxIoerr : i ≠ .rxIoerr) (txByte : i ≠ .txByte) (txErr : i ≠ .txErr) (tmrTick : i ≠ .tmrTick) : i.ofFsm = true := by
  cases i with
  | frameBadStart h0 h1 h2 h3 => exact absurd rfl (badStart h0 h1 h2 h3)
  | rxByte => exact absurd rfl rxByte
  | rxIoerr => exact absurd rfl rxIoerr
  | txByte => exact absurd rfl txByte
  | txErr => exact absurd rfl txErr
  | tmrTick => exact absurd rfl tmrTick
  | _ => rfl

namespace Machine

/-- The tick is recorded whether or not one is latched already (60_exceptions.md R233). -/
theorem execTmrTick_tickP {s t : State} (h : exec .tmrTick s = .next t) : t.tickP = true := by
  cases h
  rfl

/-- Settles O35: TMR_TICK has no enabling condition, and what it writes to the latch does not depend on the latch. -/
theorem timerTickLatches : Obligations.TimerTickLatches :=
  fun _ => ⟨rfl, fun latched _ h => (execTmrTick_tickP h).trans latched.symm⟩

section Effects

variable {i : Instr} {label : Byte} {s u : State} (h : Effect s i label u)

include h

/-! ### Every instruction -/

/-- The model's own fields are written where an instruction is fetched (log 6, log 10), and not where it runs. -/
theorem Effect.modelFields : u.hostSel = s.hostSel ∧ u.agenda = s.agenda ∧ u.freeCtr = s.freeCtr := by
  cases h <;> simp

/-- Only HOST_READ takes from the inbound buffer, and only a new data frame adds to it (20_memory.md R51). -/
theorem Effect.ib_written :
    u.ib = s.ib ∨ (∃ n, i = .hostRead n) ∨ ∃ id ack size data, i = .frameData id ack size data := by
  cases h with
  | read n => exact .inr (.inl ⟨n, rfl⟩)
  | dataNew id ack size data => exact .inr (.inr ⟨id, ack, size, data, rfl⟩)
  | _ => exact .inl (by simp)

/-- Only a host operation is replied to (30_encoding.md R79). -/
theorem Effect.replies_written : u.replies = s.replies ∨ (∃ n, i = .hostRead n) ∨ ∃ data, i = .hostWrite data := by
  cases h with
  | read n => exact .inr (.inl ⟨n, rfl⟩)
  | written data => exact .inr (.inr ⟨data, rfl⟩)
  | _ => exact .inl (by simp)

/-! ### The datapaths and the timer -/

/-- Connection state is the FSM's alone (20_memory.md R60). -/
theorem Effect.connection_of_not_fsm (pump : i.ofFsm = false) : u.connection = s.connection := by
  cases h with
  | badStart | receiveFailed | sent | sendFailed | timerTicked => rfl
  | received => simp [State.connection]
  | _ => cases pump

theorem Effect.replies_of_not_fsm (pump : i.ofFsm = false) : u.replies = s.replies := by
  rcases h.replies_written with same | ⟨n, rfl⟩ | ⟨data, rfl⟩
  · exact same
  · cases pump
  · cases pump

/-! ### The FSM -/

/-- The FSM writes no timer, decodes no byte, emits none and records no error (60_exceptions.md R226, 43_pumps.md R187). -/
theorem Effect.fsm_keeps (fsm : i.ofFsm = true) :
    u.tmrPhase = s.tmrPhase ∧ u.rxBuf = s.rxBuf ∧ u.rxHold = s.rxHold ∧ u.rxLine = s.rxLine ∧ u.obsTx = s.obsTx ∧
      u.obsErr = s.obsErr := by
  cases h with
  | badStart | received | receiveFailed | sent | sendFailed | timerTicked => cases fsm
  | _ => simp

/-- The FSM frees RXD by taking the held frame, dispatched on its id (42_state_machine.md R144, 43_pumps.md R188). -/
theorem Effect.fsm_rxPhase (fsm : i.ofFsm = true) :
    u.rxPhase = s.rxPhase ∨ (s.rxPhase = .hold ∧ u.rxPhase = .hdr ∧ i = s.rxHold.toInstr) := by
  cases h with
  | ackMatched _ _ _ _ hold held => exact .inr ⟨hold, by simp, ((toInstr_eq_frameAck ..).mpr held).symm⟩
  | ackIgnored _ _ _ _ hold held => exact .inr ⟨hold, rfl, ((toInstr_eq_frameAck ..).mpr held).symm⟩
  | dataDuplicate _ _ _ _ _ hold held nz => exact .inr ⟨hold, rfl, ((toInstr_eq_frameData ..).mpr ⟨held, nz⟩).symm⟩
  | dataNew _ _ _ _ _ hold held nz => exact .inr ⟨hold, rfl, ((toInstr_eq_frameData ..).mpr ⟨held, nz⟩).symm⟩
  | badStart | received | receiveFailed => cases fsm
  | _ => exact .inl (by simp)

/-- The FSM writes TXD by the hand-off (R162), which asks for an idle TXD. -/
theorem Effect.fsm_transmitter (fsm : i.ofFsm = true) :
    u.transmitter = s.transmitter ∨ (s.txBusy = false ∧ (i = .advHandoff ∨ i = .resendTry ∨ i = .ackHandoff)) := by
  cases h with
  | handedOver _ idle => exact .inr ⟨idle, .inl rfl⟩
  | resent _ _ idle => exact .inr ⟨idle, .inr (.inl rfl)⟩
  | ackHandedOver _ idle => exact .inr ⟨idle, .inr (.inr rfl)⟩
  | sent | sendFailed => cases fsm
  | _ => exact .inl (by simp [State.transmitter])

/-- The FSM's part of the tick latch is to consume a tick (20_memory.md R62). -/
theorem Effect.fsm_tickP (fsm : i.ofFsm = true) :
    u.tickP = s.tickP ∨ (s.tickP = true ∧ (i = .tick ∨ i = .advAbandon)) := by
  cases h with
  | ticked _ latched => exact .inr ⟨latched, .inl rfl⟩
  | abandoned _ latched => exact .inr ⟨latched, .inr rfl⟩
  | timerTicked => cases fsm
  | _ => exact .inl (by simp)

end Effects

/-- Settles O36: RXD does not write what is the FSM's, nor what every instruction leaves alone; TMR's and TXD's elements stay in each
of its three effects. -/
theorem receiveStepsFrame : Obligations.ReceiveStepsFrame := by
  intro i s t rxd hx
  rcases exec_next hx with rfl | ⟨label, u, h, rfl⟩
  · exact ⟨rfl, rfl, rfl, rfl, rfl, rfl, rfl, rfl, rfl, rfl, rfl⟩
  have pump : i.ofFsm = false := by rcases rxd with rfl | rfl | ⟨h0, h1, h2, h3, rfl⟩ <;> rfl
  have others : u.tickP = s.tickP ∧ u.tmrPhase = s.tmrPhase ∧ u.transmitter = s.transmitter ∧ u.obsTx = s.obsTx := by
    rcases rxd with rfl | rfl | ⟨h0, h1, h2, h3, rfl⟩ <;> cases h <;> simp [State.transmitter]
  obtain ⟨tickP, tmrPhase, transmitter, obsTx⟩ := others
  exact ⟨h.connection_of_not_fsm pump, tickP, tmrPhase, h.configuration, transmitter, obsTx, h.replies_of_not_fsm pump,
    h.hostPort, h.modelFields⟩

/-- Settles O37: TXD and TMR do not write what is the FSM's; the other elements stay in each of their three effects. -/
theorem transmitAndTimerStepsFrame : Obligations.TransmitAndTimerStepsFrame := by
  intro i s t txdOrTmr hx
  rcases exec_next hx with rfl | ⟨label, u, h, rfl⟩
  · exact ⟨rfl, rfl, rfl, rfl, rfl, rfl, rfl, rfl, rfl, fun _ => ⟨rfl, rfl⟩, fun _ => ⟨rfl, rfl, rfl⟩⟩
  have pump : i.ofFsm = false := by rcases txdOrTmr with rfl | rfl | rfl <;> rfl
  have rxd : u.receiver = s.receiver ∧ u.rxLine = s.rxLine := by
    rcases txdOrTmr with rfl | rfl | rfl <;> cases h <;> exact ⟨rfl, rfl⟩
  have timer (notTmr : i ≠ .tmrTick) : u.tickP = s.tickP ∧ u.tmrPhase = s.tmrPhase := by
    rcases txdOrTmr.imp_right (·.resolve_right notTmr) with rfl | rfl <;> cases h <;> exact ⟨rfl, rfl⟩
  have txd (tmr : i = .tmrTick) : u.transmitter = s.transmitter ∧ u.obsTx = s.obsTx ∧ u.obsErr = s.obsErr := by
    subst tmr
    cases h
    exact ⟨rfl, rfl, rfl⟩
  obtain ⟨receiver, rxLine⟩ := rxd
  obtain ⟨hostSel, agenda, freeCtr⟩ := h.modelFields
  exact ⟨h.connection_of_not_fsm pump, h.configuration, receiver, rxLine, h.replies_of_not_fsm pump, h.hostPort, hostSel, agenda,
    freeCtr, timer, txd⟩

/-- Settles O38, element by element: the FSM's effects on each. -/
theorem fsmStepsFrame : Obligations.FsmStepsFrame := by
  intro i s t badStart rxByte rxIoerr txByte txErr tmrTick hx
  have fsm := Instr.ofFsm_of_ne badStart rxByte rxIoerr txByte txErr tmrTick
  rcases exec_next hx with rfl | ⟨label, u, h, rfl⟩
  · exact ⟨rfl, rfl, rfl, rfl, rfl, rfl, rfl, rfl, rfl, rfl, rfl, .inl rfl, .inl rfl, .inl rfl, .inl rfl, .inl rfl⟩
  obtain ⟨tmrPhase, rxBuf, rxHold, rxLine, obsTx, obsErr⟩ := h.fsm_keeps fsm
  obtain ⟨hostSel, agenda, freeCtr⟩ := h.modelFields
  exact ⟨h.configuration, tmrPhase, rxBuf, rxHold, rxLine, obsTx, obsErr, h.hostPort, hostSel, agenda, freeCtr,
    h.fsm_rxPhase fsm, h.fsm_transmitter fsm, h.fsm_tickP fsm, h.ib_written, h.replies_written⟩

end Machine

end Sys2Proof

/-! ## Reset and configuration (O15, O16) -/

namespace Sys2Proof.Machine

/-- An act of the environment that the agenda says is done in one step. -/
theorem step_env_done {s t : State} {e : Env} {more : List Act} (hc : s.configured = true) (ha : s.agenda = .env e :: more)
    (done : fetchEnv e { s with agenda := more } = .done t) : step s = .next t := by
  simp only [step, fetch_agenda hc ha, fetchAct, done]

/-- An act of the environment that is refused stops the step. -/
theorem step_env_refused {s : State} {e : Env} {r : Refusal} {more : List Act} (hc : s.configured = true)
    (ha : s.agenda = .env e :: more) (refuse : fetchEnv e { s with agenda := more } = .refuse r) : step s = .refused r := by
  simp only [step, fetch_agenda hc ha, fetchAct, refuse]

theorem fetchEnv_config_legal {mtu retry : Nat} (legal : legalConfig mtu retry = true) (start : Byte) (s : State) :
    fetchEnv (.config mtu retry start) s = .done (applyReset (BitVec.ofNat 8 mtu) retry start s) := if_pos legal

theorem fetchEnv_config_illegal {mtu retry : Nat} (illegal : legalConfig mtu retry = false) (start : Byte) (s : State) :
    fetchEnv (.config mtu retry start) s = .refuse (.illegalConfiguration mtu retry) := by
  simp only [fetchEnv, illegal, Bool.false_eq_true, if_false]

/-- No step is taken from an illegal configuration (70_reset_and_hazards.md R251). -/
theorem step_unconfigured {s : State} (illegal : s.configured = false) :
    step s = .refused (.illegalConfiguration s.cfgMtu.toNat s.cfgRetry) := by
  simp only [step, fetch_unconfigured illegal]

/-- Settles O15: the step is `applyReset` with the configuration as it is, and every value stands in it. -/
theorem resetWhileRunning : Obligations.ResetWhileRunning := by
  intro s more hc ha
  exact ⟨applyReset s.cfgMtu s.cfgRetry s.cfgStart { s with agenda := more }, step_env_done hc ha rfl,
    rfl, rfl, rfl, rfl, rfl, rfl, rfl, rfl, rfl, rfl, Nat.succ_pos _, rfl, rfl, rfl, rfl, rfl, rfl, rfl,
    List.prefix_append _ _, fun idle => by simp [applyReset, idle], rfl, rfl, rfl⟩

/-- Settles O16: `fetchEnv` latches a legal configuration and refuses an illegal one; a state that holds an illegal one fetches
nothing. -/
theorem configurationRefusedOrLatched : Obligations.ConfigurationRefusedOrLatched := by
  refine ⟨fun s more mtu retry start hc ha => ⟨fun mtuPos mtuLe retryPos => ?_, fun outside => ?_⟩, fun s outside => ?_⟩
  · have legal : legalConfig mtu retry = true := decide_eq_true ⟨mtuPos, mtuLe, retryPos⟩
    have latched : (BitVec.ofNat 8 mtu).toNat = mtu := by
      rw [BitVec.toNat_ofNat]
      omega
    exact ⟨_, step_env_done hc ha (fetchEnv_config_legal legal start _), latched, rfl, rfl, rfl, rfl⟩
  · exact step_env_refused hc ha (fetchEnv_config_illegal ((legalConfig_eq_false_iff mtu retry).mpr outside) start _)
  · refine step_unconfigured ((legalConfig_eq_false_iff _ _).mpr ?_)
    rcases outside with mtu | retry
    · exact .inl (congrArg BitVec.toNat mtu)
    · exact .inr (.inr retry)

end Sys2Proof.Machine

/-! ## ACK_WAIT with TXD busy, and the deadlock over full channels (O43, O54)

With TXD busy ACK_HANDOFF is not enabled, and no other step of the FSM is enabled in ACK_WAIT. If RXD holds a frame too, only TXD and
TMR have a step, and a full channel takes TX_BYTE away. -/

namespace Sys2Proof.Machine

section Blocked

variable {i : Instr} {label : Byte} {s t u : State} (wait : s.ctl = .ackWait) (busy : s.txBusy = true)

include wait busy

/-- No effect in ACK_WAIT with TXD busy is the FSM's (70_reset_and_hazards.md R256). -/
theorem Effect.ofFsm_of_blocked (h : Effect s i label u) : i.ofFsm = false := by
  cases h with
  | badStart | received | receiveFailed | sent | sendFailed | timerTicked => rfl
  | ackHandedOver _ idle => cases idle.symm.trans busy
  | ackMatched _ _ _ ctl | ackIgnored _ _ _ ctl | dataDuplicate _ _ _ _ ctl | dataNew _ _ _ _ ctl | written _ ctl | read _ ctl
  | ticked ctl | handedOver ctl | abandoned ctl | resent ctl | resendSkipped ctl => cases wait.symm.trans ctl

/-- If RXD holds a frame as well, what is left is TXD's or the timer's. -/
theorem Effect.blocked_cases (hold : s.rxPhase = .hold) (h : Effect s i label u) :
    i = .txByte ∨ i = .txErr ∨ u = { s with tickP := true, tmrPhase := s.cfgRetry } := by
  have pump : i.ofFsm = false := h.ofFsm_of_blocked wait busy
  cases h with
  | badStart _ _ _ _ _ hdr => cases hold.symm.trans hdr
  | received _ _ reads | receiveFailed reads => exact absurd hold reads
  | sent => exact .inl rfl
  | sendFailed => exact .inr (.inl rfl)
  | timerTicked => exact .inr (.inr rfl)
  | _ => cases pump

end Blocked

/-- Settles O43: an FSM instruction that goes on waits or has an effect, and in ACK_WAIT with TXD busy it has none. -/
theorem ackWaitBlocksWhileBusy : Obligations.AckWaitBlocksWhileBusy := by
  intro s t i wait busy hx badStart rxByte rxIoerr txByte txErr tmrTick
  rcases exec_next hx with rfl | ⟨label, u, h, -⟩
  · rfl
  · cases (h.ofFsm_of_blocked wait busy).symm.trans (Instr.ofFsm_of_ne badStart rxByte rxIoerr txByte txErr tmrTick)

/-! ### Which pick runs a labelled step -/

/-- Each row of the table is a step under its own label (30_encoding.md R81). -/
theorem labelTable_label : ∀ row ∈ labelTable, row.2.label = some row.1 := by decide

/-- Of what RX_BYTE's label can fetch, only RX_BYTE is of the label interface (log 15). -/
theorem fetchByte_run_label {s u : State} {i : Instr} (run : fetchByte s = .run i u) (port : i.port = .label) : i = .rxByte := by
  unfold fetchByte at run
  split at run
  · cases run; rfl
  · split_ifs at run <;> cases run
    · rw [classifyHeader_port] at port
      cases port
    · rfl

/-- An instruction of the label interface is fetched by its label alone (30_encoding.md R81). -/
theorem fetchPick_run_label {p : Pick} {s u : State} {i : Instr} (run : fetchPick p s = .run i u) (port : i.port = .label) :
    some p = i.label.map .agent := by
  have notHost {k : Nat} : fetchHost k s ≠ .run i u := fun run => by
    obtain ⟨k, q, rest, -, decodes, -⟩ := fetchHost_run_inv run
    cases port.symm.trans (decodeHost_encodes 0#8 decodes).1
  have notHeld : fetchHeld s ≠ .run i u := fun run => by
    rcases fetchHeld_cases s with e | ⟨-, e⟩ <;> cases e.symm.trans run
    cases port.symm.trans (toInstr_port s.rxHold)
  cases p with
  | serve k => exact absurd run notHost
  | take => exact absurd run notHeld
  | agent b =>
    suffices label : i.label = some b by rw [label]; rfl
    simp only [fetchPick, fetchLabel] at run
    split_ifs at run with host held rxByte
    · exact absurd (ofLabel_run run) notHost
    · exact absurd (ofLabel_run run) notHeld
    · rw [fetchByte_run_label run port, rxByte]
      rfl
    · split at run <;> cases run
      next decodes => exact labelTable_label _ (mem_labelTable_of_decodeLabel decodes)

/-- A pick of the agenda finds no step to take, or runs the instruction it fetches. -/
theorem step_pick_next {s t : State} {p : Pick} {more : List Act} (ha : s.agenda = .pick p :: more) (h : step s = .next t) :
    t = { s with agenda := more } ∨ ∃ i u, fetchPick p { s with agenda := more } = .run i u ∧ exec i u = .next t := by
  have fetched := fetch_agenda (step_next h).1 ha
  rcases fetchPick_cases p { s with agenda := more } with e | ⟨i, sel, port, e, -⟩ | ⟨b, -, e⟩ <;>
    simp only [step, fetched, fetchAct, e] at h
  · cases h
    exact .inl rfl
  · exact .inr ⟨i, _, e, h⟩
  · cases h

/-- Outside LOOP no command leaves the port, so an instruction is fetched in the state as it is (42_state_machine.md R141). -/
theorem fetchPick_run_notLoop {p : Pick} {s u : State} {i : Instr} (notLoop : s.ctl ≠ .loop) (run : fetchPick p s = .run i u) :
    u = s := by
  rcases fetchPick_cases p s with e | ⟨j, sel, port, e, same⟩ | ⟨b, -, e⟩ <;> cases e.symm.trans run
  obtain ⟨rfl, rfl⟩ := same notLoop
  rfl

/-! ### A blocked end -/

/-- The FSM is in ACK_WAIT, TXD is sending and RXD holds a frame. -/
structure State.Blocked (s : State) : Prop where
  wait : s.ctl = .ackWait
  busy : s.txBusy = true
  hold : s.rxPhase = .hold

/-- From `s` to `t` the FSM and both datapaths stay as they are, no byte is taken from the line and none is emitted. -/
structure State.StaysPut (s t : State) : Prop where
  connection  : t.connection = s.connection := by rfl
  receiver    : t.receiver = s.receiver := by rfl
  transmitter : t.transmitter = s.transmitter := by rfl
  rxLine      : t.rxLine = s.rxLine := by rfl
  obsTx       : t.obsTx = s.obsTx := by rfl

/-- An instruction that is none of TXD's can only latch a tick at a blocked end. -/
theorem State.Blocked.exec {s t : State} {i : Instr} (hs : s.Blocked) (notTxByte : i ≠ .txByte) (notTxErr : i ≠ .txErr)
    (h : exec i s = .next t) : s.StaysPut t := by
  rcases exec_next h with rfl | ⟨label, u, effect, rfl⟩
  · exact {}
  · rcases effect.blocked_cases hs.wait hs.busy hs.hold with txByte | txErr | rfl
    · exact absurd txByte notTxByte
    · exact absurd txErr notTxErr
    · exact {}

/-- A pick that is none of TXD's moves a blocked end no more than that, because TXD's instructions are fetched by their labels alone. -/
theorem State.Blocked.step_pick {s t : State} {p : Pick} (hs : s.Blocked) (notTxByte : p ≠ .agent 0x90#8)
    (notTxErr : p ≠ .agent 0x91#8) (h : step { s with agenda := [.pick p] } = .next t) : s.StaysPut t := by
  have off : ({ s with agenda := [] } : State).Blocked := ⟨hs.wait, hs.busy, hs.hold⟩
  rcases step_pick_next rfl h with rfl | ⟨i, u, run, hx⟩
  · exact {}
  cases fetchPick_run_notLoop (by simp [hs.wait]) run
  have named := fetchPick_run_label run
  have stays : ({ s with agenda := [] } : State).StaysPut t := by
    refine off.exec ?_ ?_ hx
    · rintro rfl
      exact notTxByte (Option.some.inj (named rfl))
    · rintro rfl
      exact notTxErr (Option.some.inj (named rfl))
  exact { stays with }

/-! ### The link -/

/-- At a blocked end whose channel is full, no pick but a transmit failure moves either end (70_reset_and_hazards.md R258). -/
theorem act_pick_staysPut {l m : Link} {x : Side} {p : Pick} (blocked : (l.endAt x).Blocked)
    (full : channelFull l.cap (l.endAt x.peer).rxLine = true) (notTxErr : p ≠ .agent 0x91#8)
    (h : Link.act l (.endpoint x (.pick p)) = .next m) (z : Side) : (l.endAt z).StaysPut (m.endAt z) := by
  rcases act_cases h with ⟨isReset, -⟩ | ⟨_, _, e, -, -, ⟨-, rfl⟩ | ⟨allowed, stepped, carried⟩⟩
  · cases isReset
  · exact {}
  cases e
  have notTxByte : p ≠ .agent 0x90#8 := by
    rintro rfl
    simp [linkAllows, full] at allowed
  have stays := blocked.step_pick notTxByte notTxErr stepped
  rcases Side.eq_or_peer x z with rfl | rfl
  · exact stays
  · rw [carried, carry_emitted (bytes := []) (by simp [stays.obsTx]), List.append_nil]
    exact {}

/-- Settles O54: both ends are blocked and both channels are full, so the pick at either end moves neither. -/
theorem fullChannelsDeadlock : Obligations.FullChannelsDeadlock := by
  intro l m n side p more cap fullA fullB waitA waitB busyA busyB holdA holdB ha notTxErr h
  obtain ⟨sameCap, -⟩ := linkCarriesEmittedBytes l m side (.pick p) more ha h
  rw [link_step_agenda ha] at h
  have blocked : (l.endAt side).Blocked := by
    cases side
    · exact ⟨waitA, busyA, holdA⟩
    · exact ⟨waitB, busyB, holdB⟩
  have full : channelFull l.cap (l.endAt side.peer).rxLine = true := by
    rw [cap]
    cases side
    · exact decide_eq_true fullB
    · exact decide_eq_true fullA
  have stays := act_pick_staysPut (l := { l with agenda := more }) (by simpa using blocked) (by simpa using full) notTxErr h
  exact ⟨(stays .a).connection, (stays .b).connection, (stays .a).receiver, (stays .b).receiver, (stays .a).transmitter,
    (stays .b).transmitter, (stays .a).rxLine, (stays .b).rxLine, sameCap⟩

end Sys2Proof.Machine
